-- ==== Sys2Proof/Word.lean ====
section
/-! DEFINITION. The word types of the chip (00_scope.md rules R12, R15; 30_encoding.md rules R80, R81, R84). A time is a
mathematical integer, `Int`, and not a word: a signed count of the frame-relative cycle counter (R12, R161). -/

namespace Sys2Proof

/-- A written value: one byte (R12). -/
abbrev Byte := BitVec 8

/-- A CPU address: 16 bits, unsigned (R12; the width is decision D4 of the spec). -/
abbrev Addr := BitVec 16

/-- The command latch and every value it takes: 4 bits (R26). -/
abbrev Latch := BitVec 4

/-- The decode key `K` of a write: `K[13:12]` region, `K[11:8]` latch, `K[7:0]` value (R84). -/
abbrev Key := BitVec 14

/-- The call number `H` of a host operation (R81). -/
abbrev CallNumber := BitVec 3

end Sys2Proof
end

