-- ==== Sys2Proof/Config.lean ====
section
/-! DEFINITION. The implementation parameters that the spec leaves open or makes a configuration field
(00_scope.md rules R8 to R11). They stand in `State.cfg`, no operation changes them, and every statement
holds for every value that `Config.wf` admits. Their default values are in Machine/Params.lean. -/

namespace Sys2Proof

/-- The parameters of the CPU address map.  Addresses of windows are numbers and not bit vectors: the
spec assembles them on non-negative integers (R167 (a)). -/
structure Config where
  /-- `WIN_BASE`, first address of the select range (R10, open parameter). -/
  winBase : Nat
  /-- `HALF`, size in bytes of the select range and of the data range (R10, open parameter). -/
  half : Nat
  /-- `ADDR_TOP`, last address of the sound range (R10, open parameter). -/
  addrTop : Nat
  /-- `WRAM_BASE`, the window that command 0x8 programs in bank mode (R11, open parameter). -/
  wramBase : Nat
  /-- `PRG_BASE`, the window of program-bank register 0 (R8, configuration field). -/
  prgBase : Nat
  deriving DecidableEq, Repr

end Sys2Proof
end

