-- ==== Sys2Proof/Machine/Params.lean ====
section
/-! DEFINITION. The constants of the chip and the default values of its parameters (00_scope.md rules R8 to
R14; 10_state.md rule R38). Numbers a test could show wrong stand here and not in State.lean. -/

namespace Sys2Proof.Machine

/-- `CHR_GRAN`: a graphics window is 1 KiB (R8). -/
def chrGran : Nat := 0x400

/-- `PRG_GRAN`: a program window is 8 KiB (R8). -/
def prgGran : Nat := 0x2000

/-- `COUNT_MAX`: the largest countdown, and its value after reset and after an expiry (R8, R28). -/
def countMax : BitVec 16 := 0xFFFF

/-- `STATE_BYTES`: the size of the persisted state block (R14). -/
def stateBytes : Nat := 21

/-- Reset value of `wramControl`, the "extra-RAM enabled" default (R23, R38; decision D6 of the spec). -/
def wramReset : Byte := 0xC0

/-- The default parameters (R8, R10, R11). PRESUMED (log entry 1): the spec supplies `WIN_BASE`, `HALF`, `ADDR_TOP` and
`WRAM_BASE` from general knowledge. -/
def defaultConfig : Config :=
  { winBase := 0x8000, half := 0x2000, addrTop := 0xFFFF, wramBase := 0x6000, prgBase := 0x8000 }

/-- Offset of graphics window `i` in the graphics-memory address space (R22, R86). -/
def chrWindow (i : Nat) : Nat := i * chrGran

/-- CPU address of program window `k` (R24, R86). -/
def prgWindow (c : Config) (k : Nat) : Nat := c.prgBase + k * prgGran

/-- `TOP_BASE`, the window that reset pins to the last physical bank (R9). -/
def topBase (c : Config) : Nat := prgWindow c 3

end Sys2Proof.Machine
end

