-- ==== Sys2Proof/Syntax.lean ====
section
/-! DEFINITION. The operations of the chip, one constructor per row of spec/opcode_table.json (30_encoding.md rule
R87), and the undecoded form in which they reach it: a write tuple or a host call (R80, R81). -/

namespace Sys2Proof

/-- The 26 operations. A write operation carries the write's time and the whole written byte: the masking of R85 is
part of its meaning. -/
inductive Instr where
  /-- Load the command latch (R110). -/
  | sel (t : Int) (v : Byte)
  /-- Graphics-bank select 0 (R112). -/
  | chr0 (t : Int) (v : Byte)
  /-- Graphics-bank select 1 (R113). -/
  | chr1 (t : Int) (v : Byte)
  /-- Graphics-bank select 2 (R114). -/
  | chr2 (t : Int) (v : Byte)
  /-- Graphics-bank select 3 (R115). -/
  | chr3 (t : Int) (v : Byte)
  /-- Graphics-bank select 4 (R116). -/
  | chr4 (t : Int) (v : Byte)
  /-- Graphics-bank select 5 (R117). -/
  | chr5 (t : Int) (v : Byte)
  /-- Graphics-bank select 6 (R118). -/
  | chr6 (t : Int) (v : Byte)
  /-- Graphics-bank select 7 (R119). -/
  | chr7 (t : Int) (v : Byte)
  /-- Extra-RAM control (R120). -/
  | wram (t : Int) (v : Byte)
  /-- Program-bank select 0 (R122). -/
  | prg0 (t : Int) (v : Byte)
  /-- Program-bank select 1 (R123). -/
  | prg1 (t : Int) (v : Byte)
  /-- Program-bank select 2 (R124). -/
  | prg2 (t : Int) (v : Byte)
  /-- Nametable mirroring (R140). -/
  | mir (t : Int) (v : Byte)
  /-- IRQ enable or disable (R153). -/
  | irqctl (t : Int) (v : Byte)
  /-- Low byte of the countdown (R154). -/
  | irqlo (t : Int) (v : Byte)
  /-- High byte of the countdown (R155). -/
  | irqhi (t : Int) (v : Byte)
  /-- A write in the sound range (R126). -/
  | snd (t : Int) (v : Byte)
  /-- A write outside the register window (R127). -/
  | out (t : Int) (v : Byte)
  /-- `reset()` (R230). -/
  | reset
  /-- `runUntil(time)` (R159). -/
  | run (t : Int)
  /-- `endFrame(time)` (R160). -/
  | endframe (t : Int)
  /-- `nextIrqTime(time)` (R162). -/
  | nextirq (t : Int)
  /-- `applyMapping()` (R180). -/
  | apply
  /-- `saveState()` (R184). -/
  | save
  /-- `loadState(bytes)` (R185). -/
  | load (block : List Byte)
  deriving DecidableEq, Repr

/-- The arguments of a host call (R81): none, a time, or a sequence of bytes. -/
inductive CallArgs where
  | none
  | time (t : Int)
  | bytes (bs : List Byte)
  deriving DecidableEq, Repr

/-- What reaches the chip, undecoded: the write tuple of format `W` (R80), or a host call of format `CALL` by its
number (R81). -/
inductive Request where
  | write (t : Int) (a : Addr) (v : Byte)
  | call (h : CallNumber) (args : CallArgs)
  deriving DecidableEq, Repr

/-- The region of an address (R82). -/
inductive Region where
  | select
  | data
  | sound
  | outside
  deriving DecidableEq, Repr

/-- Why a request does not decode. -/
inductive DecodeError where
  /-- Call number 7 names no operation and cannot be issued (R81). -/
  | noSuchCall (h : CallNumber)
  /-- The arguments do not have the form R81 gives the call (their number, their kind, or a block not of 21 bytes). -/
  | badArguments (h : CallNumber)
  deriving DecidableEq, Repr

end Sys2Proof
end

