-- ==== Sys2Proof/WellFormed.lean ====
section
/-! DEFINITION. Which operations and which parameters are well formed. -/

namespace Sys2Proof

open Machine in
/-- A well-formed operation. The one check is that of R81: the operand of `loadState` is a sequence of exactly 21
bytes. -/
def Instr.wf : Instr → Bool
  | .sel _ _ => true
  | .chr0 _ _ => true
  | .chr1 _ _ => true
  | .chr2 _ _ => true
  | .chr3 _ _ => true
  | .chr4 _ _ => true
  | .chr5 _ _ => true
  | .chr6 _ _ => true
  | .chr7 _ _ => true
  | .wram _ _ => true
  | .prg0 _ _ => true
  | .prg1 _ _ => true
  | .prg2 _ _ => true
  | .mir _ _ => true
  | .irqctl _ _ => true
  | .irqlo _ _ => true
  | .irqhi _ _ => true
  | .snd _ _ => true
  | .out _ _ => true
  | .reset => true
  | .run _ => true
  | .endframe _ => true
  | .nextirq _ => true
  | .apply => true
  | .save => true
  | .load b => b.length == stateBytes

open Machine in
/-- The parameters the spec admits. The register window is three non-empty ranges in the order select, data, sound,
inside the 16-bit address space and with addresses below it (R10, R51, R82). The five windows the chip programs are
8 KiB, aligned to their size (R16, R68) and inside the address space (R51). The command-0x8 window is none of the four
program windows (R11). -/
def Config.wf (c : Config) : Bool :=
  decide (0 < c.winBase) && decide (0 < c.half) && decide (c.winBase + 2 * c.half ≤ c.addrTop) &&
  decide (c.addrTop ≤ 0xFFFF) &&
  decide (c.prgBase % prgGran = 0) && decide (c.prgBase + 4 * prgGran ≤ 0x10000) &&
  decide (c.wramBase % prgGran = 0) && decide (c.wramBase + prgGran ≤ 0x10000) &&
  decide (c.wramBase ≠ prgWindow c 0) && decide (c.wramBase ≠ prgWindow c 1) &&
  decide (c.wramBase ≠ prgWindow c 2) && decide (c.wramBase ≠ topBase c)

end Sys2Proof
end

