-- ==== Sys2Proof/Decode.lean ====
section
/-! DEFINITION. The two-stage decode of 30_encoding.md, and after it the encoder, written from the same tables. -/

namespace Sys2Proof

open Machine (stateBytes)

/-! ### Stage one: the region of an address -/

/-- The region of an address (R82). -/
def region (c : Config) (a : Addr) : Region :=
  if c.winBase ≤ a.toNat ∧ a.toNat < c.winBase + c.half then .select
  else if c.winBase + c.half ≤ a.toNat ∧ a.toNat < c.winBase + 2 * c.half then .data
  else if c.winBase + 2 * c.half ≤ a.toNat ∧ a.toNat ≤ c.addrTop then .sound
  else .outside

/-- The region code `rgn` of the key (R84). -/
def Region.code : Region → BitVec 2
  | .select => 0
  | .data => 1
  | .sound => 2
  | .outside => 3

/-- The region of a region code (R84). -/
def Region.ofCode (b : BitVec 2) : Region :=
  match b with
  | 0 => .select
  | 1 => .data
  | 2 => .sound
  | 3 => .outside

/-- The key `K = rgn ‖ command ‖ value` (R84). -/
def makeKey (r : Region) (latch : Latch) (v : Byte) : Key := r.code ++ latch ++ v

/-- `K[13:12]`, the region (R84). -/
def keyRegion (k : Key) : Region := Region.ofCode (k.extractLsb' 12 2)

/-- `K[11:8]`, the latch before the write (R84). -/
def keyLatch (k : Key) : Latch := k.extractLsb' 8 4

/-- `K[7:0]`, the written byte (R84). -/
def keyValue (k : Key) : Byte := k.extractLsb' 0 8

/-! ### Stage two: the target of a write -/

/-- The target of a data-range write, chosen by the latch (R83, R87). The sixteen values all have a target; the last
line is the value 0xF, the only one left. -/
def decodeData (latch : Latch) (t : Int) (v : Byte) : Instr :=
  match latch.toNat with
  | 0x0 => .chr0 t v
  | 0x1 => .chr1 t v
  | 0x2 => .chr2 t v
  | 0x3 => .chr3 t v
  | 0x4 => .chr4 t v
  | 0x5 => .chr5 t v
  | 0x6 => .chr6 t v
  | 0x7 => .chr7 t v
  | 0x8 => .wram t v
  | 0x9 => .prg0 t v
  | 0xA => .prg1 t v
  | 0xB => .prg2 t v
  | 0xC => .mir t v
  | 0xD => .irqctl t v
  | 0xE => .irqlo t v
  | _ => .irqhi t v

/-- The operation of a write: by region, and in the data range by the latch (R83, R87, R111). -/
def decodeWrite (r : Region) (latch : Latch) (t : Int) (v : Byte) : Instr :=
  match r with
  | .select => .sel t v
  | .data => decodeData latch t v
  | .sound => .snd t v
  | .outside => .out t v

/-- The operation that the key of a write names; `time` is no part of the key (R84). Total: the map leaves no key out
(R87, R88). -/
def decodeKey (k : Key) (t : Int) : Instr := decodeWrite (keyRegion k) (keyLatch k) t (keyValue k)

/-! ### Host calls -/

/-- The operation of a host call, from its call number and arguments (R81). -/
def decodeCall (h : CallNumber) (args : CallArgs) : Except DecodeError Instr :=
  match h.toNat, args with
  | 0, .none => .ok .reset
  | 1, .time t => .ok (.run t)
  | 2, .time t => .ok (.endframe t)
  | 3, .time t => .ok (.nextirq t)
  | 4, .none => .ok .apply
  | 5, .none => .ok .save
  | 6, .bytes b => if b.length = stateBytes then .ok (.load b) else .error (.badArguments h)
  | 7, _ => .error (.noSuchCall h)
  | _, _ => .error (.badArguments h)

/-- The decoder: what a request means to a chip with parameters `c` whose latch holds `latch`. The key is formed from
the write and read by `decodeKey` (R84); the latch is state of the chip and no part of the write (R83, R91). -/
def decode (c : Config) (latch : Latch) : Request → Except DecodeError Instr
  | .write t a v => .ok (decodeKey (makeKey (region c a) latch v) t)
  | .call h args => decodeCall h args

/-! ### The table's own form: mask and match -/

/-- A row of the opcode map: the key `x` belongs to it when `x & mask = pattern` (R84). -/
structure Row (n : Nat) where
  mnemonic : String
  mask : BitVec n
  pattern : BitVec n
  deriving DecidableEq, Repr

/-- The nineteen rows of format `W`, matched on the key `K` (R87). -/
def writeRows : List (Row 14) :=
  [⟨"SEL", 0x3000, 0x0000⟩,
   ⟨"CHR0", 0x3F00, 0x1000⟩, ⟨"CHR1", 0x3F00, 0x1100⟩, ⟨"CHR2", 0x3F00, 0x1200⟩, ⟨"CHR3", 0x3F00, 0x1300⟩,
   ⟨"CHR4", 0x3F00, 0x1400⟩, ⟨"CHR5", 0x3F00, 0x1500⟩, ⟨"CHR6", 0x3F00, 0x1600⟩, ⟨"CHR7", 0x3F00, 0x1700⟩,
   ⟨"WRAM", 0x3F00, 0x1800⟩,
   ⟨"PRG0", 0x3F00, 0x1900⟩, ⟨"PRG1", 0x3F00, 0x1A00⟩, ⟨"PRG2", 0x3F00, 0x1B00⟩,
   ⟨"MIR", 0x3F00, 0x1C00⟩,
   ⟨"IRQCTL", 0x3F00, 0x1D00⟩, ⟨"IRQLO", 0x3F00, 0x1E00⟩, ⟨"IRQHI", 0x3F00, 0x1F00⟩,
   ⟨"SND", 0x3000, 0x2000⟩, ⟨"OUT", 0x3000, 0x3000⟩]

/-- The seven rows of format `CALL`, matched on the call number `H` (R81, R87). -/
def callRows : List (Row 3) :=
  [⟨"RESET", 7, 0⟩, ⟨"RUN", 7, 1⟩, ⟨"ENDFRAME", 7, 2⟩, ⟨"NEXTIRQ", 7, 3⟩, ⟨"APPLY", 7, 4⟩, ⟨"SAVE", 7, 5⟩,
   ⟨"LOAD", 7, 6⟩]

/-- The mnemonic of an operation, as spec/opcode_table.json spells it. -/
def Instr.mnemonic : Instr → String
  | .sel _ _ => "SEL"
  | .chr0 _ _ => "CHR0"
  | .chr1 _ _ => "CHR1"
  | .chr2 _ _ => "CHR2"
  | .chr3 _ _ => "CHR3"
  | .chr4 _ _ => "CHR4"
  | .chr5 _ _ => "CHR5"
  | .chr6 _ _ => "CHR6"
  | .chr7 _ _ => "CHR7"
  | .wram _ _ => "WRAM"
  | .prg0 _ _ => "PRG0"
  | .prg1 _ _ => "PRG1"
  | .prg2 _ _ => "PRG2"
  | .mir _ _ => "MIR"
  | .irqctl _ _ => "IRQCTL"
  | .irqlo _ _ => "IRQLO"
  | .irqhi _ _ => "IRQHI"
  | .snd _ _ => "SND"
  | .out _ _ => "OUT"
  | .reset => "RESET"
  | .run _ => "RUN"
  | .endframe _ => "ENDFRAME"
  | .nextirq _ => "NEXTIRQ"
  | .apply => "APPLY"
  | .save => "SAVE"
  | .load _ => "LOAD"

/-! ### The encoder -/

/-- The encoding of an operation before parameters are chosen. -/
inductive Encoding where
  /-- Format `W`: the region, the latch the operation needs (`none`: any), the time and the byte (R80, R87). -/
  | write (r : Region) (latch : Option Latch) (t : Int) (v : Byte)
  /-- Format `CALL`: the call number and the arguments (R81). -/
  | call (h : CallNumber) (args : CallArgs)
  deriving DecidableEq, Repr

/-- The encoding of each operation (R81, R87). -/
def Instr.encoding : Instr → Encoding
  | .sel t v => .write .select none t v
  | .chr0 t v => .write .data (some 0x0) t v
  | .chr1 t v => .write .data (some 0x1) t v
  | .chr2 t v => .write .data (some 0x2) t v
  | .chr3 t v => .write .data (some 0x3) t v
  | .chr4 t v => .write .data (some 0x4) t v
  | .chr5 t v => .write .data (some 0x5) t v
  | .chr6 t v => .write .data (some 0x6) t v
  | .chr7 t v => .write .data (some 0x7) t v
  | .wram t v => .write .data (some 0x8) t v
  | .prg0 t v => .write .data (some 0x9) t v
  | .prg1 t v => .write .data (some 0xA) t v
  | .prg2 t v => .write .data (some 0xB) t v
  | .mir t v => .write .data (some 0xC) t v
  | .irqctl t v => .write .data (some 0xD) t v
  | .irqlo t v => .write .data (some 0xE) t v
  | .irqhi t v => .write .data (some 0xF) t v
  | .snd t v => .write .sound none t v
  | .out t v => .write .outside none t v
  | .reset => .call 0 .none
  | .run t => .call 1 (.time t)
  | .endframe t => .call 2 (.time t)
  | .nextirq t => .call 3 (.time t)
  | .apply => .call 4 .none
  | .save => .call 5 .none
  | .load b => .call 6 (.bytes b)

/-- The first address of a region (R92); for `outside`, address 0, which lies below every register window that
`Config.wf` admits (R51, R127). -/
def regionFirst (c : Config) : Region → Addr
  | .select => BitVec.ofNat 16 c.winBase
  | .data => BitVec.ofNat 16 (c.winBase + c.half)
  | .sound => BitVec.ofNat 16 (c.winBase + 2 * c.half)
  | .outside => 0

/-- The request that an encoding is, for a chip with parameters `c`. -/
def Encoding.request (c : Config) : Encoding → Request
  | .write r _ t v => .write t (regionFirst c r) v
  | .call h args => .call h args

/-- Whether a latch value is one under which the encoding names its operation. -/
def Encoding.admits (latch : Latch) : Encoding → Bool
  | .write _ none _ _ => true
  | .write _ (some l) _ _ => l == latch
  | .call _ _ => true

/-- The encoder: the request that asks a chip with parameters `c` for an operation. -/
def encode (c : Config) (i : Instr) : Request := i.encoding.request c

/-- The key of a write operation under a latch, written from the patterns of R87; a host call has no key. -/
def encodeKey (latch : Latch) (i : Instr) : Option Key :=
  match i.encoding with
  | .write r l _ v => some (makeKey r (l.getD latch) v)
  | .call _ _ => none

/-! ### The table's words -/

/-- The arguments of zeros for a call number: what an instruction has above the table's bits. -/
def zeroArgs (h : CallNumber) : CallArgs :=
  match h.toNat with
  | 1 => .time 0
  | 2 => .time 0
  | 3 => .time 0
  | 6 => .bytes (List.replicate stateBytes 0)
  | _ => .none

/-- The operation the decoder reads from a word of the opcode table. A row of format `W` has the 14 bits of the key
(two bytes), with the write's time 0; a row of format `CALL` has the 3 bits of the call number (one byte), with
arguments of zeros. A bit above the key or the call number names nothing. -/
def decodeTableWord (nbits w : Nat) : Option Instr :=
  if nbits ≤ 8 then
    if w < 8 then
      match decodeCall (BitVec.ofNat 3 w) (zeroArgs (BitVec.ofNat 3 w)) with
      | .ok i => some i
      | .error _ => none
    else none
  else if nbits ≤ 16 then
    if w < 0x4000 then some (decodeKey (BitVec.ofNat 14 w) 0) else none
  else none

end Sys2Proof
end

