-- ==== Sys2Proof/Machine/State.lean ====
section
/-! DEFINITION. The state of the chip (10_state.md), its outputs (20_memory.md rule R55), the reasons a step can stop
and the state after reset. -/

namespace Sys2Proof.Machine

/-- A bank index argument: an 8-bit index, or the symbol `LAST` for the last physical bank (R13). -/
inductive BankIdx where
  | idx (n : Byte)
  | last
  deriving DecidableEq, Repr

/-- The size of a window (R8, R56, R57). -/
inductive Granularity where
  | kib1
  | kib8
  deriving DecidableEq, Repr

/-- A call on a collaborator, the chip's only output besides return values (R55 to R59). -/
inductive Call where
  /-- `setProgramBank(baseAddress, granularity, bankIndex)` (R56). -/
  | setProgramBank (base : Nat) (gran : Granularity) (bank : BankIdx)
  /-- `setGraphicsBank(baseAddress, granularity, bankIndex)` (R57). -/
  | setGraphicsBank (base : Nat) (gran : Granularity) (bank : BankIdx)
  /-- `enableExtraRam(b)` (R58). -/
  | enableExtraRam (b : Bool)
  /-- `setMirrorVertical()` (R59). -/
  | setMirrorVertical
  /-- `setMirrorHorizontal()` (R59). -/
  | setMirrorHorizontal
  /-- `setMirrorSingleScreen(which)`, 0 for screen A and 1 for screen B (R59). -/
  | setMirrorSingleScreen (which : Fin 2)
  deriving DecidableEq, Repr

/-- What an operation returns to the host (R55): nothing, the time-or-none of `nextIrqTime` (R162), or the bytes of
`saveState` (R184). -/
inductive Answer where
  | nothing
  | time (t : Option Int)
  | block (b : List Byte)
  deriving DecidableEq, Repr

/-- The state. The first group is `MapperRegisters` and the second `TimerState` (R20); there is no other state of the
chip. The rest is the model's own: bookkeeping (R33, R37), the outputs (R55), the requests not yet delivered (log
entry 2) and the parameters (log entry 1). -/
structure State where
  /-- 2-bit nametable mirroring mode (R25). -/
  mirroring : BitVec 2
  /-- Three 8-bit program-bank selectors (R24). -/
  prgBanks : Vector Byte 3
  /-- Eight 8-bit graphics-bank selectors (R22). -/
  chrBanks : Vector Byte 8
  /-- 4-bit command latch (R26). -/
  command : Latch
  /-- Whether the countdown runs and its expiry asserts the interrupt line (R27). -/
  irqEnabled : Bool
  /-- 16-bit countdown (R28). -/
  irqCount : BitVec 16
  /-- Extra-RAM control: bit 7 `RAMEN`, bit 6 `RAMSEL`, bits 5:0 `BANK` (R23). -/
  wramControl : Byte
  /-- Interrupt pending latch (R29). -/
  irqPending : Bool
  /-- Deadline, 32 bits, signed two's complement (R30). -/
  nextTime : BitVec 32
  /-- Greatest time passed in since the last reset or frame end; bookkeeping (R33, R65). -/
  tLast : Int
  /-- Whether `reset()` has run; bookkeeping (R37). -/
  resetDone : Bool
  /-- The output trace: every call made, oldest first (R55). -/
  trace : List Call
  /-- The return value of the last operation (R55). -/
  answer : Answer
  /-- The requests the host will deliver, next one first (log entry 2). -/
  inbox : List Request
  /-- The parameters (R8 to R11). -/
  cfg : Config
  deriving DecidableEq, Repr

/-- Why the machine stops with a fault. -/
inductive Fault where
  /-- `ContractFailure` (R200): `endFrame` found the rebased deadline negative, and `d` is that deadline. Raised by
  ENDFRAME only. Safe: the spec calls it fatal and no state is defined after it. -/
  | contractFailure (d : Int)
  deriving DecidableEq, Repr

/-- Why a request has no meaning. Each is a broken obligation of the caller, which the spec tells a model to refuse
(R240). -/
inductive Refusal where
  /-- An instruction whose meaning is not written yet. Raised by an arm of `exec` only. Safe. -/
  | notModelled (mnemonic : String)
  /-- An operation before the first `reset()` (R37, U5). Raised by every operation but RESET. Safe. -/
  | beforeReset
  /-- A write, `runUntil` or `endFrame` at time `t`, earlier than the time `last` already passed (R65, U8). Raised by
  the write operations, RUN and ENDFRAME. Safe. -/
  | timeBackwards (t last : Int)
  /-- A deadline `d` that does not fit signed 32 bits (R152, U9). Raised by IRQCTL, IRQLO, IRQHI and ENDFRAME. Safe. -/
  | deadlineOverflow (d : Int)
  /-- A block that `saveState` cannot have produced (R185, U7). Raised by LOAD. Safe. -/
  | malformedBlock
  /-- A request that names no operation (R81). Raised by the step. Safe. -/
  | undecodable (e : DecodeError)
  deriving DecidableEq, Repr

/-- The state right after `reset()` on a fresh instance: the values of R38, with the fourteen calls of R230 made and no
request waiting. -/
def State.reset : State :=
  { mirroring := 0
    prgBanks := Vector.replicate 3 0
    chrBanks := Vector.replicate 8 0
    command := 0
    irqEnabled := false
    irqCount := countMax
    wramControl := wramReset
    irqPending := false
    nextTime := 0
    tLast := 0
    resetDone := true
    trace :=
      [.setProgramBank (topBase defaultConfig) .kib8 .last,
       .setProgramBank (prgWindow defaultConfig 0) .kib8 (.idx 0),
       .setProgramBank (prgWindow defaultConfig 1) .kib8 (.idx 0),
       .setProgramBank (prgWindow defaultConfig 2) .kib8 (.idx 0),
       .setGraphicsBank (chrWindow 0) .kib1 (.idx 0),
       .setGraphicsBank (chrWindow 1) .kib1 (.idx 0),
       .setGraphicsBank (chrWindow 2) .kib1 (.idx 0),
       .setGraphicsBank (chrWindow 3) .kib1 (.idx 0),
       .setGraphicsBank (chrWindow 4) .kib1 (.idx 0),
       .setGraphicsBank (chrWindow 5) .kib1 (.idx 0),
       .setGraphicsBank (chrWindow 6) .kib1 (.idx 0),
       .setGraphicsBank (chrWindow 7) .kib1 (.idx 0),
       .setMirrorVertical,
       .enableExtraRam true]
    answer := .nothing
    inbox := []
    cfg := defaultConfig }

end Sys2Proof.Machine
end

