-- ==== Sys2Proof/Machine/Deliver.lean ====
section
/-! DEFINITION. How a word of the opcode table is delivered as the next request (log entry 3). -/

namespace Sys2Proof.Machine

/-- The request of a table word: for a key, a write at time 0 to the first address of its region; for a call number,
the call with arguments of zeros. -/
def wordRequest (c : Config) (nbits w : Nat) : Request :=
  if nbits ≤ 8 then .call (BitVec.ofNat 3 w) (zeroArgs (BitVec.ofNat 3 w))
  else .write 0 (regionFirst c (keyRegion (BitVec.ofNat 14 w))) (keyValue (BitVec.ofNat 14 w))

/-- The latch a table word needs: that of the key; a call needs none and leaves the latch. -/
def wordLatch (nbits w : Nat) (latch : Latch) : Latch :=
  if nbits ≤ 8 then latch else keyLatch (BitVec.ofNat 14 w)

/-- `s` with the word's request in front of the waiting ones and the word's latch in place. -/
def deliverWord (nbits w : Nat) (s : State) : State :=
  { s with command := wordLatch nbits w s.command, inbox := wordRequest s.cfg nbits w :: s.inbox }

end Sys2Proof.Machine
end

