-- ==== Sys2Proof/Machine/Operands.lean ====
section
/-! DEFINITION. How each operation reads the written byte (30_encoding.md rule R85), what is assembled from fields
(R86), and the endian codec (20_memory.md rule R54). -/

namespace Sys2Proof.Machine

/-! ### Fields of the written byte (R85) -/

/-- SEL: `value[3:0]`, the new latch. -/
def selLatch (v : Byte) : Latch := v.extractLsb' 0 4

/-- WRAM: bit 7, `RAMEN`. -/
def ramEnable (v : Byte) : Bool := v[7]

/-- WRAM: bit 6, `RAMSEL`. -/
def ramSelect (v : Byte) : Bool := v[6]

/-- WRAM: bits 5:0, `BANK`, as a bank index. -/
def wramBank (v : Byte) : Byte := (v.extractLsb' 0 6).setWidth 8

/-- MIR: `value[1:0]`, the new mode. -/
def mirMode (v : Byte) : BitVec 2 := v.extractLsb' 0 2

/-- The mode's bit 1, `SINGLE` (R25). -/
def mirSingle (m : BitVec 2) : Bool := m[1]

/-- The mode's bit 0, `SEL` (R25). -/
def mirSel (m : BitVec 2) : Bool := m[0]

/-- IRQCTL: bit 0. -/
def irqBit (v : Byte) : Bool := v[0]

/-! ### Assembled counts (R86) -/

/-- IRQLO: the countdown with its low byte replaced, `{ c[15:8], v }` (R154). -/
def withLow (c : BitVec 16) (v : Byte) : BitVec 16 := c.extractLsb' 8 8 ++ v

/-- IRQHI: the countdown with its high byte replaced, `{ v, c[7:0] }` (R155). -/
def withHigh (c : BitVec 16) (v : Byte) : BitVec 16 := v ++ c.extractLsb' 0 8

/-! ### The endian codec (R54) -/

/-- The byte at an offset of a byte sequence; 0 past its end, which no operation reads. -/
def byteAt (b : List Byte) (o : Nat) : Byte := b.getD o 0

/-- The bytes of a 16-bit value, least significant first. -/
def le16 (v : BitVec 16) : List Byte := [v.extractLsb' 0 8, v.extractLsb' 8 8]

/-- The bytes of a 32-bit value, least significant first. -/
def le32 (v : BitVec 32) : List Byte :=
  [v.extractLsb' 0 8, v.extractLsb' 8 8, v.extractLsb' 16 8, v.extractLsb' 24 8]

/-- `b` with the bytes `bs` stored at offsets `o`, `o + 1` and so on. -/
def storeBytes (b : List Byte) (o : Nat) : List Byte → List Byte
  | [] => b
  | x :: xs => storeBytes (b.set o x) (o + 1) xs

/-- `get_le16(b, o)`. -/
def getLe16 (b : List Byte) (o : Nat) : BitVec 16 := byteAt b (o + 1) ++ byteAt b o

/-- `get_le32(b, o)`. -/
def getLe32 (b : List Byte) (o : Nat) : BitVec 32 :=
  byteAt b (o + 3) ++ byteAt b (o + 2) ++ byteAt b (o + 1) ++ byteAt b o

/-- `get_be16(b, o)`. Used by no operation (R7, R54). -/
def getBe16 (b : List Byte) (o : Nat) : BitVec 16 := byteAt b o ++ byteAt b (o + 1)

/-- `get_be32(b, o)`. Used by no operation (R7, R54). -/
def getBe32 (b : List Byte) (o : Nat) : BitVec 32 :=
  byteAt b o ++ byteAt b (o + 1) ++ byteAt b (o + 2) ++ byteAt b (o + 3)

/-- `set_le16(b, o, v)`. -/
def setLe16 (b : List Byte) (o : Nat) (v : BitVec 16) : List Byte := storeBytes b o (le16 v)

/-- `set_le32(b, o, v)`. -/
def setLe32 (b : List Byte) (o : Nat) (v : BitVec 32) : List Byte := storeBytes b o (le32 v)

/-- `set_be16(b, o, v)`. Used by no operation (R7, R54). -/
def setBe16 (b : List Byte) (o : Nat) (v : BitVec 16) : List Byte := storeBytes b o (le16 v).reverse

/-- `set_be32(b, o, v)`. Used by no operation (R7, R54). -/
def setBe32 (b : List Byte) (o : Nat) (v : BitVec 32) : List Byte := storeBytes b o (le32 v).reverse

end Sys2Proof.Machine
end

