-- ==== Sys2Proof/Machine/Ops.lean ====
section
/-! DEFINITION. The operations over state that the meanings share: updates, the caller's obligations, the calls the
registers stand for, the deadline store, the one failure and the persisted state block. -/

namespace Sys2Proof.Machine

/-- What a meaning answers. -/
abbrev Result := Host.Outcome State Fault Refusal

/-! ### Updates, one per field -/

/-- `mirroring <- m`. -/
def State.setMirroring (s : State) (m : BitVec 2) : State := { s with mirroring := m }

/-- `prgBanks[k] <- v`. -/
def State.setPrg (s : State) (k : Fin 3) (v : Byte) : State := { s with prgBanks := s.prgBanks.set k v }

/-- `chrBanks[i] <- v`. -/
def State.setChr (s : State) (i : Fin 8) (v : Byte) : State := { s with chrBanks := s.chrBanks.set i v }

/-- `command <- l`. -/
def State.setCommand (s : State) (l : Latch) : State := { s with command := l }

/-- `irqEnabled <- b`. -/
def State.setEnabled (s : State) (b : Bool) : State := { s with irqEnabled := b }

/-- `irqCount <- c`. -/
def State.setCount (s : State) (c : BitVec 16) : State := { s with irqCount := c }

/-- `wramControl <- v`. -/
def State.setWram (s : State) (v : Byte) : State := { s with wramControl := v }

/-- `irqPending <- b`. -/
def State.setPending (s : State) (b : Bool) : State := { s with irqPending := b }

/-- `nextTime <- d`. -/
def State.setNextTime (s : State) (d : BitVec 32) : State := { s with nextTime := d }

/-- `tLast <- t` (R65). -/
def State.setTLast (s : State) (t : Int) : State := { s with tLast := t }

/-- `emit c`: one call appended to the output trace (R15, R55). -/
def State.emit (s : State) (c : Call) : State := { s with trace := s.trace ++ [c] }

/-- The return value of the operation (R55). -/
def State.setAnswer (s : State) (a : Answer) : State := { s with answer := a }

/-! ### The caller's obligations -/

/-- An operation other than RESET: refused before the first `reset()` (R37, U5); otherwise it returns nothing unless
its meaning sets an answer. -/
def afterReset (s : State) (k : State → Result) : Result :=
  if s.resetDone then k (s.setAnswer .nothing) else .refused .beforeReset

/-- `require t >= tLast ; tLast <- t` (R65): refused when time goes backwards (U8). -/
def inOrder (t : Int) (s : State) (k : State → Result) : Result :=
  if s.tLast ≤ t then k (s.setTLast t) else .refused (.timeBackwards t s.tLast)

/-- An operation that carries a time: a write (R111), `runUntil` (R159) or `endFrame` (R160). -/
def timed (t : Int) (s : State) (k : State → Result) : Result := afterReset s (inOrder t · k)

/-! ### The deadline and the one failure -/

/-- Whether a deadline fits signed 32 bits (R152). -/
def fitsDeadline (d : Int) : Bool := decide (-2147483648 ≤ d) && decide (d ≤ 2147483647)

/-- `nextTime <- d`, refused when `d` does not fit signed 32 bits (R12, R152, U9). -/
def storeDeadline (d : Int) (s : State) : Result :=
  if fitsDeadline d then .next (s.setNextTime (BitVec.ofInt 32 d)) else .refused (.deadlineOverflow d)

/-- `raise ContractFailure(d)` (R200): the chip's one failure. It saves nothing and has no handler and no return; the
machine stops. The chip takes no other exception (R201), and the CPU taking the chip's interrupt changes nothing in
the chip (R205), so this is all there is of exception entry. -/
def raiseContractFailure (d : Int) : Result := .fault (.contractFailure d)

/-! ### The command-addressed registers and the calls they stand for -/

/-- `regs[c]` for `c` in 0x0 to 0xC (R21). -/
def State.reg (s : State) (c : Fin 13) : Byte :=
  if h : c.val < 8 then s.chrBanks[c.val]
  else if c.val = 8 then s.wramControl
  else if h : c.val - 9 < 3 then s.prgBanks[c.val - 9]
  else s.mirroring.setWidth 8

/-- The call of `ApplyMirroring()`, a function of the stored mode alone (R141). -/
def mirrorCall (m : BitVec 2) : Call :=
  if mirSingle m then .setMirrorSingleScreen (if mirSel m then 1 else 0)
  else if mirSel m then .setMirrorHorizontal
  else .setMirrorVertical

/-- The call of `ApplyReg(0x8)`, a function of the stored byte alone (R121). -/
def wramCall (c : Config) (v : Byte) : Call :=
  if ramSelect v then .enableExtraRam (ramEnable v) else .setProgramBank c.wramBase .kib8 (.idx (wramBank v))

/-- The one call that `ApplyReg(c)` emits (R121). -/
def State.regCall (s : State) (c : Fin 13) : Call :=
  if h : c.val < 8 then .setGraphicsBank (chrWindow c.val) .kib1 (.idx s.chrBanks[c.val])
  else if c.val = 8 then wramCall s.cfg s.wramControl
  else if h : c.val - 9 < 3 then
    .setProgramBank (prgWindow s.cfg (c.val - 9)) .kib8 (.idx s.prgBanks[c.val - 9])
  else mirrorCall s.mirroring

/-- `ApplyReg(c)` (R121). -/
def applyReg (c : Fin 13) (s : State) : State := s.emit (s.regCall c)

/-- The order in which `applyMapping` applies the registers: program banks, graphics banks, mirroring, extra-RAM control
(R180). -/
def mappingOrder : List (Fin 13) := [0x9, 0xA, 0xB, 0x0, 0x1, 0x2, 0x3, 0x4, 0x5, 0x6, 0x7, 0xC, 0x8]

/-- `applyMapping()` (R180). -/
def applyMapping (s : State) : State := mappingOrder.foldl (fun s c => applyReg c s) s

/-! ### The persisted state block (R183) -/

/-- A flag's byte: 0x00 or 0x01 (R183). -/
def flagByte (b : Bool) : Byte := if b then 1 else 0

/-- The 21 bytes of the persisted state block, in the order of R183. -/
def State.block (s : State) : List Byte :=
  [s.mirroring.setWidth 8] ++ s.prgBanks.toList ++ s.chrBanks.toList ++
    [s.command.setWidth 8, flagByte s.irqEnabled, s.wramControl] ++ le16 s.irqCount ++ le32 s.nextTime

/-- The `require` of `loadState`: a block that `saveState` can have produced (R185, U7). -/
def blockOk (b : List Byte) : Bool :=
  b.length == stateBytes && decide ((byteAt b 0).toNat ≤ 3) && decide ((byteAt b 12).toNat ≤ 15) &&
    decide ((byteAt b 13).toNat ≤ 1)

/-- The stores of `loadState` (R185). `irqPending`, `tLast` and the trace stay as they were. -/
def State.loadBlock (s : State) (b : List Byte) : State :=
  { s with
    mirroring := (byteAt b 0).extractLsb' 0 2
    prgBanks := #v[byteAt b 1, byteAt b 2, byteAt b 3]
    chrBanks :=
      #v[byteAt b 4, byteAt b 5, byteAt b 6, byteAt b 7, byteAt b 8, byteAt b 9, byteAt b 10, byteAt b 11]
    command := (byteAt b 12).extractLsb' 0 4
    irqEnabled := (byteAt b 13)[0]
    wramControl := byteAt b 14
    irqCount := getLe16 b 15
    nextTime := getLe32 b 17 }

/-! ### The stores of `reset()` -/

/-- The register values that `reset()` installs (R38, R230). The trace, the waiting requests and the parameters stay;
the answer is nothing. -/
def State.resetRegisters (s : State) : State :=
  { s with
    chrBanks := Vector.replicate 8 0
    prgBanks := Vector.replicate 3 0
    mirroring := 0
    command := 0
    wramControl := wramReset
    irqCount := countMax
    irqEnabled := false
    irqPending := false
    nextTime := 0
    tLast := 0
    resetDone := true
    answer := .nothing }

/-- The pin of the topmost program window to the last physical bank (R24, R230). -/
def State.pinTop (s : State) : State := s.emit (.setProgramBank (topBase s.cfg) .kib8 .last)

end Sys2Proof.Machine
end

