-- ==== Sys2Proof/Machine/Flags.lean ====
section
/-! DEFINITION. The two flags `irqEnabled` and `irqPending` and everything that computes them: expiry, advance, arming,
the named states, the query and the level of the interrupt line (42_irq_timer.md). -/

namespace Sys2Proof.Machine

/-- The deadline as a signed integer (R30). -/
def State.deadline (s : State) : Int := s.nextTime.toInt

/-- Expiry of the countdown: pending set, enable cleared, countdown at its maximum; the deadline keeps its old value
(R158). -/
def State.expire (s : State) : State := ((s.setPending true).setEnabled false).setCount countMax

/-- `Advance(end)`: bring the timer up to time `e` (R158). -/
def advance (e : Int) (s : State) : State :=
  if s.irqEnabled then
    if s.deadline ≤ e then s.expire else s.setCount (BitVec.ofInt 16 (s.deadline - e))
  else s

/-- `Arm(t)`: the deadline is `t` plus the countdown, on integers (R152). -/
def arm (t : Int) (s : State) : Result := storeDeadline (t + (s.irqCount.toNat : Int)) s

/-- `if irqEnabled = 1 then Arm(t)`, the end of a countdown write (R154, R155). -/
def rearmIfEnabled (t : Int) (s : State) : Result := if s.irqEnabled then arm t s else .next s

/-- The rebasing of `endFrame(end)`, with its assertion (R160, R200). -/
def rebase (e : Int) (s : State) : Result :=
  if s.irqEnabled then
    if s.deadline - e < 0 then raiseContractFailure (s.deadline - e) else storeDeadline (s.deadline - e) s
  else .next s

/-- The answer of `nextIrqTime(present)` (R162). -/
def State.nextIrq (s : State) (present : Int) : Option Int :=
  if s.irqPending then some present else if s.irqEnabled then some s.deadline else none

/-- The named states of the timer (R150). -/
inductive TimerState where
  | disabled
  | armed (d : Int)
  | pending
  | pendingRearmed (d : Int)
  deriving DecidableEq, Repr

/-- The names are a reading of the two flags (R150). -/
def State.timerState (s : State) : TimerState :=
  match s.irqEnabled, s.irqPending with
  | false, false => .disabled
  | true, false => .armed s.deadline
  | false, true => .pending
  | true, true => .pendingRearmed s.deadline

/-- The level of the interrupt request line at time `x` (R163). -/
def State.irqLine (s : State) (x : Int) : Bool := s.irqPending || (s.irqEnabled && decide (s.deadline ≤ x))

end Sys2Proof.Machine
end

