-- ==== Sys2Proof/Machine/Banks.lean ====
section
/-! DEFINITION. The bank-switch multiplexer: CHR0 to CHR7, WRAM, PRG0 to PRG2, and the mirroring mode MIR
(40_write_dispatch_and_banks.md sections 3 to 5; 41_mirroring.md). Each stores a register and applies it (R128 (b)). -/

namespace Sys2Proof.Machine

/-- A graphics-bank write: store, then program the window (R112 to R119). -/
def chrWrite (i : Fin 8) (t : Int) (v : Byte) (s : State) : Result :=
  timed t s fun s => .next (applyReg (i.castLE (by decide)) (s.setChr i v))

/-- A program-bank write: store, then program the window (R122 to R124). -/
def prgWrite (k : Fin 3) (t : Int) (v : Byte) (s : State) : Result :=
  timed t s fun s => .next (applyReg ⟨9 + k.val, by omega⟩ (s.setPrg k v))

/-- CHR0 (R112). -/
def execChr0 (t : Int) (v : Byte) (s : State) : Result := chrWrite 0 t v s

/-- CHR1 (R113). -/
def execChr1 (t : Int) (v : Byte) (s : State) : Result := chrWrite 1 t v s

/-- CHR2 (R114). -/
def execChr2 (t : Int) (v : Byte) (s : State) : Result := chrWrite 2 t v s

/-- CHR3 (R115). -/
def execChr3 (t : Int) (v : Byte) (s : State) : Result := chrWrite 3 t v s

/-- CHR4 (R116). -/
def execChr4 (t : Int) (v : Byte) (s : State) : Result := chrWrite 4 t v s

/-- CHR5 (R117). -/
def execChr5 (t : Int) (v : Byte) (s : State) : Result := chrWrite 5 t v s

/-- CHR6 (R118). -/
def execChr6 (t : Int) (v : Byte) (s : State) : Result := chrWrite 6 t v s

/-- CHR7 (R119). -/
def execChr7 (t : Int) (v : Byte) (s : State) : Result := chrWrite 7 t v s

/-- WRAM: store the whole byte, then make the one call of its mode (R120). -/
def execWram (t : Int) (v : Byte) (s : State) : Result := timed t s fun s => .next (applyReg 0x8 (s.setWram v))

/-- PRG0 (R122). -/
def execPrg0 (t : Int) (v : Byte) (s : State) : Result := prgWrite 0 t v s

/-- PRG1 (R123). -/
def execPrg1 (t : Int) (v : Byte) (s : State) : Result := prgWrite 1 t v s

/-- PRG2 (R124). -/
def execPrg2 (t : Int) (v : Byte) (s : State) : Result := prgWrite 2 t v s

/-- MIR: `mirroring <- v[1:0]`, then `ApplyMirroring()` (R140). -/
def execMir (t : Int) (v : Byte) (s : State) : Result :=
  timed t s fun s => .next (applyReg 0xC (s.setMirroring (mirMode v)))

end Sys2Proof.Machine
end

