-- ==== Sys2Proof/Machine/HostOps.lean ====
section
/-! DEFINITION. The host operations on the whole register file: RESET (70_reset_and_hazards.md), APPLY, SAVE and LOAD
(43_host_operations.md). -/

namespace Sys2Proof.Machine

/-- RESET, `reset()`: the register values of R38, the pin of the topmost window, then `applyMapping()` (R230). It may run
at any time and does not depend on the state before it. -/
def execReset (s : State) : Result := .next (applyMapping s.resetRegisters.pinTop)

/-- APPLY, `applyMapping()`: thirteen calls, no register changed (R180). -/
def execApply (s : State) : Result := afterReset s fun s => .next (applyMapping s)

/-- SAVE, `saveState()`: the 21 bytes of the persisted state block; a copy that changes no state of the chip (R184). -/
def execSave (s : State) : Result := afterReset s fun s => .next (s.setAnswer (.block s.block))

/-- LOAD, `loadState(b)`: the registers of the block; a block `saveState` cannot have produced is refused (R185). -/
def execLoad (b : List Byte) (s : State) : Result :=
  afterReset s fun s => if blockOk b then .next (s.loadBlock b) else .refused .malformedBlock

end Sys2Proof.Machine
end

