-- ==== Sys2Proof/Machine/Latch.lean ====
section
/-! DEFINITION. SEL, and the two writes the chip ignores: SND and OUT (40_write_dispatch_and_banks.md sections 2
and 6). -/

namespace Sys2Proof.Machine

/-- SEL: `command <- v[3:0]` (R110). -/
def execSel (t : Int) (v : Byte) (s : State) : Result := timed t s fun s => .next (s.setCommand (selLatch v))

/-- SND: a write in the sound range is accepted and ignored; `tLast` advances like for any write (R90, R126). -/
def execSnd (t : Int) (_v : Byte) (s : State) : Result := timed t s fun s => .next s

/-- OUT: a write outside the register window changes nothing; `tLast` advances like for any write (R127). -/
def execOut (t : Int) (_v : Byte) (s : State) : Result := timed t s fun s => .next s

end Sys2Proof.Machine
end

