-- ==== Sys2Proof/Machine/Timer.lean ====
section
/-! DEFINITION. The IRQ timer's operations: IRQCTL, IRQLO, IRQHI, RUN, ENDFRAME, NEXTIRQ (42_irq_timer.md). -/

namespace Sys2Proof.Machine

/-- IRQCTL: advance to the write's time (R156), then enable and arm, or disable and clear pending, by bit 0 (R153). -/
def execIrqctl (t : Int) (v : Byte) (s : State) : Result :=
  timed t s fun s =>
    if irqBit v then arm t ((advance t s).setEnabled true)
    else .next (((advance t s).setEnabled false).setPending false)

/-- IRQLO: advance to the write's time (R156), replace the low byte of the countdown, re-arm if enabled (R154). -/
def execIrqlo (t : Int) (v : Byte) (s : State) : Result :=
  timed t s fun s => rearmIfEnabled t ((advance t s).setCount (withLow (advance t s).irqCount v))

/-- IRQHI: advance to the write's time (R156), replace the high byte of the countdown, re-arm if enabled (R155). -/
def execIrqhi (t : Int) (v : Byte) (s : State) : Result :=
  timed t s fun s => rearmIfEnabled t ((advance t s).setCount (withHigh (advance t s).irqCount v))

/-- RUN, `runUntil(t)`: `Advance(t)` (R159). -/
def execRun (t : Int) (s : State) : Result := timed t s fun s => .next (advance t s)

/-- ENDFRAME, `endFrame(t)`: `Advance(t)`, rebase a still enabled deadline, and the clock starts at 0 again (R160). -/
def execEndframe (t : Int) (s : State) : Result := timed t s fun s => rebase t ((advance t s).setTLast 0)

/-- NEXTIRQ, `nextIrqTime(t)`: a query that changes no state of the chip and carries no time obligation (R65, R162). -/
def execNextirq (t : Int) (s : State) : Result := afterReset s fun s => .next (s.setAnswer (.time (s.nextIrq t)))

end Sys2Proof.Machine
end

