-- ==== Sys2Proof/Machine/Dispatch.lean ====
section
/-! DEFINITION. One arm per operation of the opcode table (30_encoding.md rule R87). -/

namespace Sys2Proof.Machine

def exec (i : Instr) (s : State) : Host.Outcome State Fault Refusal :=
  match i with
  | .sel t v => Sys2Proof.Machine.execSel t v s
  | .chr0 t v => Sys2Proof.Machine.execChr0 t v s
  | .chr1 t v => Sys2Proof.Machine.execChr1 t v s
  | .chr2 t v => Sys2Proof.Machine.execChr2 t v s
  | .chr3 t v => Sys2Proof.Machine.execChr3 t v s
  | .chr4 t v => Sys2Proof.Machine.execChr4 t v s
  | .chr5 t v => Sys2Proof.Machine.execChr5 t v s
  | .chr6 t v => Sys2Proof.Machine.execChr6 t v s
  | .chr7 t v => Sys2Proof.Machine.execChr7 t v s
  | .wram t v => Sys2Proof.Machine.execWram t v s
  | .prg0 t v => Sys2Proof.Machine.execPrg0 t v s
  | .prg1 t v => Sys2Proof.Machine.execPrg1 t v s
  | .prg2 t v => Sys2Proof.Machine.execPrg2 t v s
  | .mir t v => Sys2Proof.Machine.execMir t v s
  | .irqctl t v => Sys2Proof.Machine.execIrqctl t v s
  | .irqlo t v => Sys2Proof.Machine.execIrqlo t v s
  | .irqhi t v => Sys2Proof.Machine.execIrqhi t v s
  | .snd t v => Sys2Proof.Machine.execSnd t v s
  | .out t v => Sys2Proof.Machine.execOut t v s
  | .reset => Sys2Proof.Machine.execReset s
  | .run t => Sys2Proof.Machine.execRun t s
  | .endframe t => Sys2Proof.Machine.execEndframe t s
  | .nextirq t => Sys2Proof.Machine.execNextirq t s
  | .apply => Sys2Proof.Machine.execApply s
  | .save => Sys2Proof.Machine.execSave s
  | .load block => Sys2Proof.Machine.execLoad block s

end Sys2Proof.Machine
end

