-- ==== Sys2Proof/Machine/Step.lean ====
section
/-! DEFINITION. One step: the host delivers the next request, the chip decodes it with its present latch and runs it
(10_state.md rule R36; 20_memory.md rule R64). -/

namespace Sys2Proof.Machine

/-- One step. With no request waiting nothing happens (log entry 2). -/
def step (s : State) : Host.Outcome State Fault Refusal :=
  match s.inbox with
  | [] => .next s
  | r :: rest =>
    match decode s.cfg s.command r with
    | .ok i => exec i { s with inbox := rest }
    | .error e => .refused (.undecodable e)

/-- `s` with the request that a table word stands for as the next one delivered; the latch of the word's key is put
in place, since the latch is part of the key (log entry 3). -/
def State.withFetchWord (s : State) (nbits w : Nat) : State := deliverWord nbits w s

end Sys2Proof.Machine
end

