-- ==== Sys2Proof/Machine/Bus.lean ====
section
/-! DEFINITION. The collaborators seen from outside the chip: `BusView` (20_memory.md rule R60), the multiplexer's
read side (R62, R63) and the nametable arrangements (41_mirroring.md rules R142, R143). None of it is state of the chip
(R34); it is computed from the output trace or from the registers. -/

namespace Sys2Proof.Machine

/-! ### Partial maps with number keys, as lists in one canonical form -/

/-- A partial map from numbers to bank indexes: keys strictly rising. -/
abbrev BankMap := List (Nat × BankIdx)

/-- The canonical form: keys strictly rising. -/
def BankMap.wf : BankMap → Bool
  | [] => true
  | [_] => true
  | (a, _) :: (b, y) :: m => decide (a < b) && BankMap.wf ((b, y) :: m)

/-- The entry of a key, if a call has set it. -/
def BankMap.get (k : Nat) : BankMap → Option BankIdx
  | [] => none
  | (a, x) :: m => if a = k then some x else BankMap.get k m

/-- Overwrite the entry of a key and leave the rest. -/
def BankMap.set (k : Nat) (v : BankIdx) : BankMap → BankMap
  | [] => [(k, v)]
  | (a, x) :: m => if k < a then (k, v) :: (a, x) :: m else if k = a then (k, v) :: m else (a, x) :: BankMap.set k v m

/-! ### BusView -/

/-- The four nametable arrangements (R25, R60). -/
inductive Arrangement where
  | vertical
  | horizontal
  | singleA
  | singleB
  deriving DecidableEq, Repr

/-- What the collaborators hold, last writer wins (R60). An entry no call has set is absent. -/
structure BusView where
  /-- From window base to program bank. -/
  prgWin : BankMap
  /-- From graphics window number to graphics bank. -/
  chrWin : BankMap
  extraRam : Option Bool
  mirror : Option Arrangement
  deriving DecidableEq, Repr

/-- A bus that no call has reached. -/
def BusView.fresh : BusView := { prgWin := [], chrWin := [], extraRam := none, mirror := none }

/-- The effect of one call: it overwrites the one entry it names (R60). -/
def BusView.apply (v : BusView) : Call → BusView
  | .setProgramBank a _ x => { v with prgWin := BankMap.set a x v.prgWin }
  | .setGraphicsBank a _ x => { v with chrWin := BankMap.set (a / chrGran) x v.chrWin }
  | .enableExtraRam b => { v with extraRam := some b }
  | .setMirrorVertical => { v with mirror := some .vertical }
  | .setMirrorHorizontal => { v with mirror := some .horizontal }
  | .setMirrorSingleScreen w => { v with mirror := some (if w = 0 then .singleA else .singleB) }

/-- The view after a list of calls, from a view. -/
def BusView.run (v : BusView) (calls : List Call) : BusView := calls.foldl BusView.apply v

/-- The view of a bus that this chip's history has driven from fresh. -/
def State.bus (s : State) : BusView := BusView.fresh.run s.trace

/-! ### The multiplexer's read side -/

/-- The base of the 8 KiB window an address lies in, `a - a mod 0x2000` (R62). -/
def windowBase (a : Addr) : Nat := a.toNat - a.toNat % prgGran

/-- The bank and the offset in it that a CPU read of `a` shows: the entry of the window's base, at offset
`a mod 0x2000` (R62). `none` outside every window a call has set. What the CPU sees in the command-0x8 window, where a
bank and extra RAM may both have been put, is a parameter of the bus (U4): the argument `rule`, which says of a view
whether that window shows its program bank. Where it does not, the answer is `none`, for what the bus shows instead is
no bank. That a bus decides this from its view alone is the model's choice (DESIGN CHOICE, log entry 28). -/
def BusView.cpuRead (c : Config) (rule : BusView → Bool) (v : BusView) (a : Addr) : Option (BankIdx × Nat) :=
  if windowBase a = c.wramBase ∧ rule v = false then none
  else (BankMap.get (windowBase a) v.prgWin).map fun x => (x, a.toNat % prgGran)

/-- The bank and the offset in it that a graphics read at offset `o` shows (R62). -/
def BusView.graphicsRead (v : BusView) (o : Nat) : Option (BankIdx × Nat) :=
  (BankMap.get (o / chrGran) v.chrWin).map fun x => (x, o % chrGran)

/-- The number of a bank in a memory of `banks` banks. The chip passes every index unchecked (R61); an index below `banks`
is the bank of that number (R62), and for an index past the end, there alone, the bus's own function `reduce` of the
index and the size decides (R61, U3). `LAST` is the last bank (R13, decision D7 of the spec). -/
def bankNumber (reduce : Nat → Nat → Nat) (banks : Nat) : BankIdx → Nat
  | .idx n => if n.toNat < banks then n.toNat else reduce n.toNat banks
  | .last => banks - 1

/-- The byte a CPU read of `a` returns from a program memory of `banks` 8 KiB banks (R62), on a bus with the two rules
that U3 and U4 leave to it; `none` where no program bank is shown. -/
def programByte (c : Config) (rule : BusView → Bool) (reduce : Nat → Nat → Nat) (banks : Nat) (rom : List Byte)
    (v : BusView) (a : Addr) : Option Byte :=
  (v.cpuRead c rule a).bind fun p => rom[bankNumber reduce banks p.1 * prgGran + p.2]?

/-- The byte a graphics read at offset `o` returns from a graphics memory of `banks` 1 KiB banks (R62). -/
def graphicsByte (reduce : Nat → Nat → Nat) (banks : Nat) (rom : List Byte) (v : BusView) (o : Nat) : Option Byte :=
  (v.graphicsRead o).bind fun p => rom[bankNumber reduce banks p.1 * chrGran + p.2]?

/-- The multiplexer as hardware, for the default parameters: CPU address bits 15:13 choose a bank register or the
constant `LAST` (R62). In RAM mode the command-0x8 register shows no bank. Whether the CPU sees what it chooses in the
command-0x8 window is the bus's rule (U4, log entry 28). PRESUMED (log entry 9). -/
def State.programMux (s : State) (a : Addr) : Option BankIdx :=
  match (a.extractLsb' 13 3).toNat with
  | 3 => if ramSelect s.wramControl then none else some (.idx (wramBank s.wramControl))
  | 4 => some (.idx s.prgBanks[0])
  | 5 => some (.idx s.prgBanks[1])
  | 6 => some (.idx s.prgBanks[2])
  | 7 => some .last
  | _ => none

/-- The graphics side of the multiplexer: graphics address bits 12:10 choose a register (R62). PRESUMED (log entry 9). -/
def State.graphicsMux (s : State) (o : BitVec 13) : BankIdx := .idx (s.chrBanks.get (o.extractLsb' 10 3).toFin)

/-! ### The nametables -/

/-- The two physical nametables. -/
inductive Nametable where
  | a
  | b
  deriving DecidableEq, Repr

/-- Which physical nametable each logical one shows (R142). PRESUMED (log entry 9): no rule depends on it. -/
def Arrangement.shows : Arrangement → Fin 4 → Nametable
  | .vertical, n => if n.val % 2 = 0 then .a else .b
  | .horizontal, n => if n.val < 2 then .a else .b
  | .singleA, _ => .a
  | .singleB, _ => .b

/-- The decoder as a circuit: the address bit that chooses the physical nametable, from the stored mode and a video
address (R143). PRESUMED (log entry 9). R143 names bits 10 and 11 and no width: the 14 bits of a video address are the
model's, PRESUMED (log entry 29), and no other bit is read. -/
def State.nametableBit (s : State) (a : BitVec 14) : Bool :=
  match s.mirroring with
  | 0 => a[10]
  | 1 => a[11]
  | 2 => false
  | 3 => true

/-- The arrangement of the stored mode (R25). -/
def State.arrangement (s : State) : Arrangement :=
  match s.mirroring with
  | 0 => .vertical
  | 1 => .horizontal
  | 2 => .singleA
  | 3 => .singleB

end Sys2Proof.Machine
end

