-- ==== Sys2Proof/Machine/Cycle.lean ====
section
/-! DEFINITION. The cycle-by-cycle reading of the timer (42_irq_timer.md rule R164): a 16-bit down counter, an enable
flag and a pending flag, with no deadline. It is a second design, to which the lazy timer of Flags.lean is compared. -/

namespace Sys2Proof.Machine

/-- The counter, its enable and the pending flag (R164). -/
structure Counter where
  count : BitVec 16
  enabled : Bool
  pending : Bool
  deriving DecidableEq, Repr

/-- Expiry: pending set, enable cleared, countdown at its maximum and stopped (R164 (c)). -/
def Counter.expire (_c : Counter) : Counter := { count := countMax, enabled := false, pending := true }

/-- One cycle: count down while enabled, and expire when the result is 0; hold while disabled (R164 (a), (d)). -/
def Counter.tick (c : Counter) : Counter :=
  if c.enabled then if c.count - 1 = 0 then c.expire else { c with count := c.count - 1 } else c

/-- A number of cycles. -/
def Counter.ticks : Nat → Counter → Counter
  | 0, c => c
  | n + 1, c => Counter.ticks n c.tick

/-- Right after an IRQ write an enabled counter at 0 expires at once (R164 (b)). -/
def Counter.settle (c : Counter) : Counter := if c.enabled && c.count == 0 then c.expire else c

/-- IRQCTL on the counter (R153, R164). -/
def Counter.ctl (v : Byte) (c : Counter) : Counter :=
  if irqBit v then { c with enabled := true }.settle else { c with enabled := false, pending := false }

/-- IRQLO on the counter (R154, R164). -/
def Counter.lo (v : Byte) (c : Counter) : Counter := { c with count := withLow c.count v }.settle

/-- IRQHI on the counter (R155, R164). -/
def Counter.hi (v : Byte) (c : Counter) : Counter := { c with count := withHigh c.count v }.settle

/-- The counter that a state of the lazy timer stands for at time `x`: its flags and countdown brought up to `x`. -/
def State.counterAt (s : State) (x : Int) : Counter :=
  { count := (advance x s).irqCount, enabled := (advance x s).irqEnabled, pending := (advance x s).irqPending }

end Sys2Proof.Machine
end

