-- ==== Sys2Proof/Machine/Pseudo.lean ====
section
/-! DEFINITION. The written forms of operations and the pseudo-operations, as the requests they stand for
(30_encoding.md rules R92, R93). -/

namespace Sys2Proof.Machine

/-- `<t>: SEL <n>`: a write to the first address of the select range (R92). -/
def lineSel (c : Config) (t : Int) (n : Byte) : Request := .write t (regionFirst c .select) n

/-- `<t>: DATA <value>`: a write to the first address of the data range (R92). -/
def lineData (c : Config) (t : Int) (v : Byte) : Request := .write t (regionFirst c .data) v

/-- `<t>: SND <value>`: a write to the first address of the sound range (R92). -/
def lineSnd (c : Config) (t : Int) (v : Byte) : Request := .write t (regionFirst c .sound) v

/-- `SET <c>, <v>`: write `<v>` to internal register `<c>` (R93). -/
def pseudoSet (c : Config) (t : Int) (n : Latch) (v : Byte) : List Request :=
  [lineSel c t (n.setWidth 8), lineData c t v]

/-- `SETCOUNT <n>`: load the 16-bit countdown, low byte first (R93). -/
def pseudoSetCount (c : Config) (t : Int) (n : BitVec 16) : List Request :=
  pseudoSet c t 0xE (n.extractLsb' 0 8) ++ pseudoSet c t 0xF (n.extractLsb' 8 8)

/-- `IRQON`: enable and arm (R93). -/
def pseudoIrqOn (c : Config) (t : Int) : List Request := pseudoSet c t 0xD 0x01

/-- `IRQOFF`: disable and acknowledge (R93). -/
def pseudoIrqOff (c : Config) (t : Int) : List Request := pseudoSet c t 0xD 0x00

end Sys2Proof.Machine
end

