-- ==== Sys2Proof/Safety.lean ====
section
/-! DEFINITION. What a good run keeps: the terms the statements use. -/

namespace Sys2Proof.Machine

/-- A call the chip may make: the forms that rules R56 to R59 allow, and no other. -/
def Call.legal (c : Config) : Call → Bool
  | .setProgramBank a g x =>
    decide (g = .kib8) &&
      (match x with
       | .last => decide (a = topBase c)
       | .idx n =>
         (decide (a = c.wramBase) && decide (n.toNat < 64)) || decide (a = prgWindow c 0) ||
           decide (a = prgWindow c 1) || decide (a = prgWindow c 2))
  | .setGraphicsBank a g x =>
    decide (g = .kib1) && decide (a % chrGran = 0) && decide (a / chrGran < 8) && decide (x ≠ .last)
  | .enableExtraRam _ => true
  | .setMirrorVertical => true
  | .setMirrorHorizontal => true
  | .setMirrorSingleScreen _ => true

/-- What every step keeps: the parameters are well formed, time is not negative (R161), every call made is one the
chip may make (R56 to R59), and the topmost program window shows the last bank (R125, R231). -/
def State.inv (s : State) : Bool :=
  s.cfg.wf && s.resetDone && decide (0 ≤ s.tLast) && s.trace.all (Call.legal s.cfg) &&
    decide (BankMap.get (topBase s.cfg) s.bus.prgWin = some .last)

/-- The timer's bound: a running timer's deadline is at most 0xFFFF past the last time (R31). -/
def State.timerBound (s : State) : Bool := !s.irqEnabled || decide (s.deadline - s.tLast ≤ 0xFFFF)

/-- The bus is current: for every register, the call it stands for would change nothing (R128 (c)). -/
def State.busCurrent (s : State) : Bool :=
  (List.finRange 13).all fun c => decide (s.bus.apply (s.regCall c) = s.bus)

/-- The obligations under which an operation that carries time `t` executes: `reset()` has run (R232 (a)) and time does
not go backwards (R65). -/
abbrev State.accepts (s : State) (t : Int) : Prop := s.resetDone = true ∧ s.tLast ≤ t

/-- The premise on the host's clock under which every arming at `t` fits 32 bits (R152). -/
abbrev clockFits (t : Int) : Prop := -2147483648 ≤ t ∧ t + 0xFFFF ≤ 2147483647

end Sys2Proof.Machine
end

