-- ==== Sys2Proof/Certificates/Slice0/Obligations.lean ====
section
/-! DEFINITION. The statements for the provers. Each docstring names the rules of spec/ it formalises; a clause that rests
on a decision of the spec or of the model names it. -/

open Sys2Proof Sys2Proof.Machine

/-! ### Encoding and decode -/

/-- R84, R87 (derived, total and disjoint), R81, R88: every key lies in exactly one row of the write table, and the
decoder reads that row's operation; every call number that decodes lies in exactly one row of the call table, and call
number 7 names none. -/
def Obligations.EveryKeyLiesInExactlyTheDecodedRow : Prop :=
  (∀ (k : Key) (t : Int),
    (writeRows.filter fun r => k &&& r.mask == r.pattern).map (·.mnemonic) = [(decodeKey k t).mnemonic]) ∧
  (∀ (h : CallNumber) (args : CallArgs) (i : Instr), decodeCall h args = .ok i →
    (callRows.filter fun r => h &&& r.mask == r.pattern).map (·.mnemonic) = [i.mnemonic]) ∧
  (∀ args : CallArgs, decodeCall 7 args = .error (.noSuchCall 7))

/-- Decode and encode agree (R80 to R87): for all well-formed parameters, every well-formed operation with every operand,
and every latch under which its encoding names it, decoding the encoded request gives the operation back. -/
def Obligations.DecodeOfEncodeIsTheInstruction : Prop :=
  ∀ (c : Config) (latch : Latch) (i : Instr),
    c.wf = true → i.wf = true → i.encoding.admits latch = true → decode c latch (encode c i) = .ok i

/-- The other direction: what decodes is well formed and its encoding admits the latch; a write is encoded again with its
own time and value at an address of the same region (any address of a range is as good as any other, R68), and a call
as itself. -/
def Obligations.EncodeOfDecodeIsTheRequest : Prop :=
  ∀ (c : Config) (latch : Latch) (r : Request) (i : Instr),
    c.wf = true → decode c latch r = .ok i →
      i.wf = true ∧ i.encoding.admits latch = true ∧
      match r with
      | .write t a v => ∃ a', encode c i = .write t a' v ∧ region c a' = region c a
      | .call _ _ => encode c i = r

/-- R84, R87, and the vectors S4, S5, V1, V4, V16 of 95_test_vectors.md: words written out bit by bit from the patterns
decode to the operations they stand for. -/
def Obligations.WordsOfTheTableDecode : Prop :=
  decodeTableWord 16 0b00000000001001 = some (.sel 0 0x09) ∧
  decodeTableWord 16 0b01001110101011 = some (.chr3 0 0xAB) ∧
  decodeTableWord 16 0b01100010000101 = some (.wram 0 0x85) ∧
  decodeTableWord 16 0b01100100000101 = some (.prg0 0 0x05) ∧
  decodeTableWord 16 0b01110000000011 = some (.mir 0 0x03) ∧
  decodeTableWord 16 0b01110100000001 = some (.irqctl 0 0x01) ∧
  decodeTableWord 16 0b01111000010000 = some (.irqlo 0 0x10) ∧
  decodeTableWord 16 0b01111100000000 = some (.irqhi 0 0x00) ∧
  decodeTableWord 16 0b10000000001111 = some (.snd 0 0x0F) ∧
  decodeTableWord 16 0b11000001010101 = some (.out 0 0x55) ∧
  decodeTableWord 8 0b000 = some .reset ∧ decodeTableWord 8 0b001 = some (.run 0) ∧
  decodeTableWord 8 0b101 = some .save ∧ decodeTableWord 8 0b111 = none

/-- R82 with the default parameters: the region is a function of address bits 15:13. The numbers are the model's log
entry 1 (decision D1 of the spec). -/
def Obligations.DefaultRegionsByTopAddressBits : Prop :=
  ∀ a : Addr, region defaultConfig a =
    (if a.extractLsb' 13 3 = 0b100 then .select
     else if a.extractLsb' 13 3 = 0b101 then .data
     else if a.extractLsb' 14 2 = 0b11 then .sound
     else .outside)

/-- R83: in the data region the present value of `command` chooses the target, in five disjoint targets that cover all
sixteen values. -/
def Obligations.DataWritesAreRoutedByTheLatch : Prop :=
  ∀ (c : Config) (t : Int) (a : Addr) (v : Byte), region c a = .data →
    decode c 0x0 (.write t a v) = .ok (.chr0 t v) ∧ decode c 0x1 (.write t a v) = .ok (.chr1 t v) ∧
    decode c 0x2 (.write t a v) = .ok (.chr2 t v) ∧ decode c 0x3 (.write t a v) = .ok (.chr3 t v) ∧
    decode c 0x4 (.write t a v) = .ok (.chr4 t v) ∧ decode c 0x5 (.write t a v) = .ok (.chr5 t v) ∧
    decode c 0x6 (.write t a v) = .ok (.chr6 t v) ∧ decode c 0x7 (.write t a v) = .ok (.chr7 t v) ∧
    decode c 0x8 (.write t a v) = .ok (.wram t v) ∧
    decode c 0x9 (.write t a v) = .ok (.prg0 t v) ∧ decode c 0xA (.write t a v) = .ok (.prg1 t v) ∧
    decode c 0xB (.write t a v) = .ok (.prg2 t v) ∧
    decode c 0xC (.write t a v) = .ok (.mir t v) ∧
    decode c 0xD (.write t a v) = .ok (.irqctl t v) ∧ decode c 0xE (.write t a v) = .ok (.irqlo t v) ∧
    decode c 0xF (.write t a v) = .ok (.irqhi t v)

/-- R36, R64, R111: a step takes the next request, decodes it with the present latch and runs it; nothing else stands
around `exec`. With no request waiting nothing happens, and a request that names no operation is refused: these two are
the model's own (log entry 2; R81). -/
def Obligations.StepRunsTheDecodedInstruction : Prop :=
  (∀ (s : State) (r : Request) (rest : List Request) (i : Instr),
    s.inbox = r :: rest → decode s.cfg s.command r = .ok i → step s = exec i { s with inbox := rest }) ∧
  (∀ (s : State) (r : Request) (rest : List Request) (e : DecodeError),
    s.inbox = r :: rest → decode s.cfg s.command r = .error e → step s = .refused (.undecodable e)) ∧
  (∀ s : State, s.inbox = [] → step s = .next s)

/-- R84, R91 with log entry 3 of the model: when a table word decodes to an operation, the step after its delivery runs
that operation; the word's latch, bits 11:8 of a key, is the one in place, and a call leaves the latch alone. -/
def Obligations.TheDeliveredTableWordIsTheNextOperation : Prop :=
  ∀ (s : State) (nbits w : Nat) (i : Instr), s.cfg.wf = true → decodeTableWord nbits w = some i →
    step (s.withFetchWord nbits w) =
      exec i { s with command := if nbits ≤ 8 then s.command else BitVec.ofNat 4 (w / 0x100) }

/-! ### The command latch and the ignored writes -/

/-- R110. SEL: a write to any address of the select range, whatever the latch, decodes to SEL; under the obligations it
completes, the low four bits of the byte become `command`, and nothing else changes but the time bookkeeping and the
return value. The example's address, 0x8000, rests on the default register window: log entry 1, PRESUMED (R10, decision
D1 of the spec). -/
def Obligations.SelLoadsTheLatch : Prop :=
  (∀ (latch : Latch) (t : Int) (v : Byte), decodeKey (0b00#2 ++ latch ++ v) t = .sel t v) ∧
  (∀ (c : Config) (latch : Latch) (t : Int) (a : Addr) (v : Byte), region c a = .select →
    decode c latch (.write t a v) = .ok (.sel t v)) ∧
  (∀ (s : State) (t : Int) (v : Byte), s.accepts t →
    exec (.sel t v) s = .next { s with command := v.extractLsb' 0 4, tLast := t, answer := .nothing }) ∧
  decode defaultConfig 0x0 (.write 5 0x8000 0x1C) = .ok (.sel 5 0x1C) ∧ (0x1C : Byte).extractLsb' 0 4 = 0xC#4

/-- R126. SND: a write to any address of the sound range, whatever the latch, decodes to SND; it is accepted and changes
no state element of the chip and makes no call; `tLast` advances like for any write. The examples' addresses, 0xC000 and
0xE000, rest on the default register window: log entry 1, PRESUMED (R10, decision D1 of the spec). -/
def Obligations.SoundWritesAreAcceptedAndIgnored : Prop :=
  (∀ (latch : Latch) (t : Int) (v : Byte), decodeKey (0b10#2 ++ latch ++ v) t = .snd t v) ∧
  (∀ (c : Config) (latch : Latch) (t : Int) (a : Addr) (v : Byte), region c a = .sound →
    decode c latch (.write t a v) = .ok (.snd t v)) ∧
  (∀ (s : State) (t : Int) (v : Byte), s.accepts t →
    exec (.snd t v) s = .next { s with tLast := t, answer := .nothing }) ∧
  (∀ latch : Latch, decode defaultConfig latch (.write 7 0xC000 0x0F) = .ok (.snd 7 0x0F) ∧
    decode defaultConfig latch (.write 7 0xE000 0x3F) = .ok (.snd 7 0x3F))

/-- R127 and decision D9 of the spec. OUT: a write outside the register window changes nothing and makes no call. -/
def Obligations.OutsideWritesChangeNothing : Prop :=
  (∀ (latch : Latch) (t : Int) (v : Byte), decodeKey (0b11#2 ++ latch ++ v) t = .out t v) ∧
  (∀ (c : Config) (latch : Latch) (t : Int) (a : Addr) (v : Byte), region c a = .outside →
    decode c latch (.write t a v) = .ok (.out t v)) ∧
  (∀ (s : State) (t : Int) (v : Byte), s.accepts t →
    exec (.out t v) s = .next { s with tLast := t, answer := .nothing })

/-- R89: SEL bits 7:4, MIR bits 7:2 and IRQCTL bits 7:1 may be anything with no effect, and are not stored; in WRAM the
whole byte is stored, but bits 5:0 have no effect while bit 6 is 1 and bit 7 has none while bit 6 is 0: two bytes that
differ only there leave states that differ only in the stored byte. -/
def Obligations.IgnoredBitsHaveNoEffect : Prop :=
  ∀ (s : State) (t : Int) (v w : Byte),
    (v.extractLsb' 0 4 = w.extractLsb' 0 4 → exec (.sel t v) s = exec (.sel t w) s) ∧
    (v.extractLsb' 0 2 = w.extractLsb' 0 2 → exec (.mir t v) s = exec (.mir t w) s) ∧
    (v[0] = w[0] → exec (.irqctl t v) s = exec (.irqctl t w) s) ∧
    (∀ sv sw : State, exec (.wram t v) s = .next sv → exec (.wram t w) s = .next sw →
      ((v[6] = true ∧ w[6] = true ∧ v[7] = w[7]) ∨
        (v[6] = false ∧ w[6] = false ∧ v.extractLsb' 0 6 = w.extractLsb' 0 6)) →
      sv.wramControl = v ∧ sw.wramControl = w ∧ { sv with wramControl := w } = sw)

/-! ### The bank-switch multiplexer -/

/-- R112 to R119. CHR0 to CHR7: with command `i` a data-range write decodes to CHR`i`; under the obligations it completes,
stores the byte in `chrBanks[i]` and makes the one call that programs the 1 KiB window at offset `i * 0x400` with it;
nothing else changes but the time bookkeeping and the return value. -/
def Obligations.GraphicsBankWritesStoreAndProgramTheWindow : Prop :=
  ∀ (s : State) (t : Int) (v : Byte), s.accepts t →
    (decodeKey (0b010000#6 ++ v) t = .chr0 t v ∧
      exec (.chr0 t v) s = .next { s with
        chrBanks := s.chrBanks.set 0 v, tLast := t, answer := .nothing
        trace := s.trace ++ [.setGraphicsBank 0x0000 .kib1 (.idx v)] }) ∧
    (decodeKey (0b010001#6 ++ v) t = .chr1 t v ∧
      exec (.chr1 t v) s = .next { s with
        chrBanks := s.chrBanks.set 1 v, tLast := t, answer := .nothing
        trace := s.trace ++ [.setGraphicsBank 0x0400 .kib1 (.idx v)] }) ∧
    (decodeKey (0b010010#6 ++ v) t = .chr2 t v ∧
      exec (.chr2 t v) s = .next { s with
        chrBanks := s.chrBanks.set 2 v, tLast := t, answer := .nothing
        trace := s.trace ++ [.setGraphicsBank 0x0800 .kib1 (.idx v)] }) ∧
    (decodeKey (0b010011#6 ++ v) t = .chr3 t v ∧
      exec (.chr3 t v) s = .next { s with
        chrBanks := s.chrBanks.set 3 v, tLast := t, answer := .nothing
        trace := s.trace ++ [.setGraphicsBank 0x0C00 .kib1 (.idx v)] }) ∧
    (decodeKey (0b010100#6 ++ v) t = .chr4 t v ∧
      exec (.chr4 t v) s = .next { s with
        chrBanks := s.chrBanks.set 4 v, tLast := t, answer := .nothing
        trace := s.trace ++ [.setGraphicsBank 0x1000 .kib1 (.idx v)] }) ∧
    (decodeKey (0b010101#6 ++ v) t = .chr5 t v ∧
      exec (.chr5 t v) s = .next { s with
        chrBanks := s.chrBanks.set 5 v, tLast := t, answer := .nothing
        trace := s.trace ++ [.setGraphicsBank 0x1400 .kib1 (.idx v)] }) ∧
    (decodeKey (0b010110#6 ++ v) t = .chr6 t v ∧
      exec (.chr6 t v) s = .next { s with
        chrBanks := s.chrBanks.set 6 v, tLast := t, answer := .nothing
        trace := s.trace ++ [.setGraphicsBank 0x1800 .kib1 (.idx v)] }) ∧
    (decodeKey (0b010111#6 ++ v) t = .chr7 t v ∧
      exec (.chr7 t v) s = .next { s with
        chrBanks := s.chrBanks.set 7 v, tLast := t, answer := .nothing
        trace := s.trace ++ [.setGraphicsBank 0x1C00 .kib1 (.idx v)] })

/-- R120 with decisions D5 and D8 of the spec. WRAM: the whole byte is stored; with bit 6 set the one call enables or
disables extra RAM by bit 7; with bit 6 clear the one call shows the program bank of bits 5:0 at `WRAM_BASE`. -/
def Obligations.WramWriteStoresTheByteAndMakesTheCallOfItsMode : Prop :=
  ∀ (s : State) (t : Int) (v : Byte), s.accepts t →
    decodeKey (0b011000#6 ++ v) t = .wram t v ∧
    (v[6] = true →
      exec (.wram t v) s = .next { s with
        wramControl := v, tLast := t, answer := .nothing
        trace := s.trace ++ [.enableExtraRam (v[7])] }) ∧
    (v[6] = false →
      exec (.wram t v) s = .next { s with
        wramControl := v, tLast := t, answer := .nothing
        trace := s.trace ++ [.setProgramBank s.cfg.wramBase .kib8 (.idx ((v.extractLsb' 0 6).setWidth 8))] })

/-- R122 to R124. PRG0 to PRG2: with command `9 + k` a data-range write decodes to PRG`k`; under the obligations it
completes, stores the byte in `prgBanks[k]` and makes the one call that programs the 8 KiB window at
`PRG_BASE + k * 0x2000`, which with `PRG_BASE = 0x8000` (R8) is 0x8000, 0xA000, 0xC000. -/
def Obligations.ProgramBankWritesStoreAndProgramTheWindow : Prop :=
  ∀ (s : State) (t : Int) (v : Byte), s.accepts t →
    (decodeKey (0b011001#6 ++ v) t = .prg0 t v ∧
      exec (.prg0 t v) s = .next { s with
        prgBanks := s.prgBanks.set 0 v, tLast := t, answer := .nothing
        trace := s.trace ++ [.setProgramBank s.cfg.prgBase .kib8 (.idx v)] }) ∧
    (decodeKey (0b011010#6 ++ v) t = .prg1 t v ∧
      exec (.prg1 t v) s = .next { s with
        prgBanks := s.prgBanks.set 1 v, tLast := t, answer := .nothing
        trace := s.trace ++ [.setProgramBank (s.cfg.prgBase + 0x2000) .kib8 (.idx v)] }) ∧
    (decodeKey (0b011011#6 ++ v) t = .prg2 t v ∧
      exec (.prg2 t v) s = .next { s with
        prgBanks := s.prgBanks.set 2 v, tLast := t, answer := .nothing
        trace := s.trace ++ [.setProgramBank (s.cfg.prgBase + 0x4000) .kib8 (.idx v)] }) ∧
    defaultConfig.prgBase = 0x8000

/-- R140, R141. MIR: the low two bits are stored, and the one call is: single screen with bit 0 as its argument when bit
1 is set, horizontal when only bit 0 is set, vertical otherwise. That `which` is bit 0 for both screens is an inference
of the spec (R141). -/
def Obligations.MirWriteStoresTheModeAndSetsTheArrangement : Prop :=
  ∀ (s : State) (t : Int) (v : Byte), s.accepts t →
    decodeKey (0b011100#6 ++ v) t = .mir t v ∧
    exec (.mir t v) s = .next { s with
      mirroring := v.extractLsb' 0 2, tLast := t, answer := .nothing
      trace := s.trace ++ [
        if v[1] then .setMirrorSingleScreen (if v[0] then 1 else 0)
        else if v[0] then .setMirrorHorizontal
        else .setMirrorVertical] }

/-- R128 (a). For SEL, the bank writes, the mirroring write and the ignored writes: no timer state changes, and the
write's time has no influence on the state left but for `tLast`. -/
def Obligations.BankWritesDoNotDependOnTimeAndLeaveTheTimer : Prop :=
  ∀ f ∈ ([.sel, .chr0, .chr1, .chr2, .chr3, .chr4, .chr5, .chr6, .chr7, .wram, .prg0, .prg1, .prg2, .mir, .snd, .out] :
      List (Int → Byte → Instr)),
    ∀ (s s₁ s₂ : State) (t₁ t₂ : Int) (v : Byte),
      exec (f t₁ v) s = .next s₁ → exec (f t₂ v) s = .next s₂ →
        { s₁ with tLast := t₂ } = s₂ ∧
        s₁.irqEnabled = s.irqEnabled ∧ s₁.irqCount = s.irqCount ∧ s₁.irqPending = s.irqPending ∧
        s₁.nextTime = s.nextTime

/-- R69. A select, bank, RAM-control or mirroring write done twice in a row leaves the registers and the `BusView` of
doing it once, though it makes its calls twice. -/
def Obligations.RepeatedBankWritesAreIdempotent : Prop :=
  ∀ f ∈ ([.sel, .chr0, .chr1, .chr2, .chr3, .chr4, .chr5, .chr6, .chr7, .wram, .prg0, .prg1, .prg2, .mir] :
      List (Int → Byte → Instr)),
    ∀ (s s₁ : State) (t₁ t₂ : Int) (v : Byte), t₁ ≤ t₂ → exec (f t₁ v) s = .next s₁ →
      ∃ s₂ calls, exec (f t₂ v) s₁ = .next s₂ ∧ s₁.trace = s.trace ++ calls ∧
        s₂ = { s₁ with tLast := t₂, trace := s₁.trace ++ calls } ∧ s₂.bus = s₁.bus

/-! ### The IRQ timer -/

/-- R159, with the body R158. RUN: a disabled timer does not move; a deadline at or before `e` expires, setting pending,
clearing the enable and leaving the countdown at 0xFFFF; a later deadline leaves in the countdown the cycles to it,
in 16 bits. -/
def Obligations.RunAdvancesTheTimer : Prop :=
  ∀ (s : State) (e : Int), s.accepts e →
    (s.irqEnabled = false → exec (.run e) s = .next { s with tLast := e, answer := .nothing }) ∧
    (s.irqEnabled = true → s.nextTime.toInt ≤ e →
      exec (.run e) s = .next { s with
        irqPending := true, irqEnabled := false, irqCount := 0xFFFF, tLast := e, answer := .nothing }) ∧
    (s.irqEnabled = true → e < s.nextTime.toInt →
      exec (.run e) s = .next { s with
        irqCount := BitVec.ofInt 16 (s.nextTime.toInt - e), tLast := e, answer := .nothing })

/-- R158: running to `e₁` and then to `e₂` is running to `e₂`. -/
def Obligations.RunningTwiceIsRunningToTheLaterTime : Prop :=
  ∀ (s s₁ : State) (e₁ e₂ : Int), e₁ ≤ e₂ → exec (.run e₁) s = .next s₁ → exec (.run e₂) s₁ = exec (.run e₂) s

/-- R153 with R152 and R156 (decision D10 of the spec: the write first advances the timer to its own time). IRQCTL with
bit 0 clear always completes, disabled and not pending, and keeps the countdown; with bit 0 set it enables and arms the
deadline `t + irqCount`, and is refused when that does not fit signed 32 bits (R152). Pending survives an enable. -/
def Obligations.IrqControlWriteEnablesOrDisables : Prop :=
  ∀ (s : State) (t : Int) (v : Byte), s.accepts t →
    let a := advance t { s with tLast := t, answer := .nothing }
    let d : Int := t + a.irqCount.toNat
    decodeKey (0b011101#6 ++ v) t = .irqctl t v ∧
    (v[0] = false →
      exec (.irqctl t v) s = .next { a with irqEnabled := false, irqPending := false }) ∧
    (v[0] = true → -2 ^ 31 ≤ d → d ≤ 2 ^ 31 - 1 →
      exec (.irqctl t v) s = .next { a with irqEnabled := true, nextTime := BitVec.ofInt 32 d }) ∧
    (v[0] = true → ¬ (-2 ^ 31 ≤ d ∧ d ≤ 2 ^ 31 - 1) →
      exec (.irqctl t v) s = .refused (.deadlineOverflow d))

/-- R154, R155 with R152 and R156 (decision D10 of the spec). IRQLO and IRQHI: after the advance to the write's own time
one byte of the countdown is replaced and the other kept; a timer then enabled is armed from the new countdown, a
disabled one is not. -/
def Obligations.CountdownByteWritesReplaceOneByteAndRearm : Prop :=
  ∀ (s : State) (t : Int) (v : Byte), s.accepts t →
    let a := advance t { s with tLast := t, answer := .nothing }
    let lo : BitVec 16 := a.irqCount.extractLsb' 8 8 ++ v
    let hi : BitVec 16 := v ++ a.irqCount.extractLsb' 0 8
    let fits : Int → Prop := fun d => -2 ^ 31 ≤ d ∧ d ≤ 2 ^ 31 - 1
    decodeKey (0b011110#6 ++ v) t = .irqlo t v ∧ decodeKey (0b011111#6 ++ v) t = .irqhi t v ∧
    (a.irqEnabled = false →
      exec (.irqlo t v) s = .next { a with irqCount := lo } ∧
      exec (.irqhi t v) s = .next { a with irqCount := hi }) ∧
    (a.irqEnabled = true →
      (fits (t + lo.toNat) →
        exec (.irqlo t v) s = .next { a with irqCount := lo, nextTime := BitVec.ofInt 32 (t + lo.toNat) }) ∧
      (¬ fits (t + lo.toNat) → exec (.irqlo t v) s = .refused (.deadlineOverflow (t + lo.toNat))) ∧
      (fits (t + hi.toNat) →
        exec (.irqhi t v) s = .next { a with irqCount := hi, nextTime := BitVec.ofInt 32 (t + hi.toNat) }) ∧
      (¬ fits (t + hi.toNat) → exec (.irqhi t v) s = .refused (.deadlineOverflow (t + hi.toNat))))

/-- R160, R161 (decision D13 of the spec: nothing is rebased while disabled). ENDFRAME: the timer is advanced to the
frame's end; an expiry due by then happens in the old frame; a still running deadline is rebased by the frame length; the
clock starts again at 0. It completes from every state whose time is not negative. -/
def Obligations.EndFrameAdvancesAndRebases : Prop :=
  ∀ (s : State) (e : Int), s.accepts e → 0 ≤ s.tLast →
    (s.irqEnabled = false → exec (.endframe e) s = .next { s with tLast := 0, answer := .nothing }) ∧
    (s.irqEnabled = true → s.nextTime.toInt ≤ e →
      exec (.endframe e) s = .next { s with
        irqPending := true, irqEnabled := false, irqCount := 0xFFFF, tLast := 0, answer := .nothing }) ∧
    (s.irqEnabled = true → e < s.nextTime.toInt →
      exec (.endframe e) s = .next { s with
        irqCount := BitVec.ofInt 16 (s.nextTime.toInt - e)
        nextTime := BitVec.ofInt 32 (s.nextTime.toInt - e), tLast := 0, answer := .nothing } ∧
      1 ≤ (BitVec.ofInt 32 (s.nextTime.toInt - e)).toInt ∧
      (BitVec.ofInt 32 (s.nextTime.toInt - e)).toInt = s.nextTime.toInt - e)

/-- R162 (decision D14 of the spec: the query advances nothing). NEXTIRQ answers the present time while pending, else
the deadline while enabled, else none; pending hides a re-armed deadline. Only the return value changes, and no time
obligation applies (R65). -/
def Obligations.NextIrqAnswersPresentDeadlineOrNone : Prop :=
  ∀ (s : State) (x : Int), s.resetDone = true →
    (s.irqPending = true → exec (.nextirq x) s = .next { s with answer := .time (some x) }) ∧
    (s.irqPending = false → s.irqEnabled = true →
      exec (.nextirq x) s = .next { s with answer := .time (some s.nextTime.toInt) }) ∧
    (s.irqPending = false → s.irqEnabled = false →
      exec (.nextirq x) s = .next { s with answer := .time none })

/-- R163, R203: how the host reads the answer. `none`: the line is low and stays low; `some y`: at every time from the
query on, the line is high exactly from `y` on. -/
def Obligations.TheAnswerOfNextIrqTellsTheLine : Prop :=
  ∀ (s : State) (x : Int),
    (s.nextIrq x = none → ∀ z, s.irqLine z = false) ∧
    (∀ y, s.nextIrq x = some y → ∀ z, x ≤ z → (s.irqLine z = true ↔ y ≤ z))

/-- R165 (a), R152, R156: every write that arms the timer at `t`, be it stopped or running before: IRQCTL with bit 0 set,
and IRQLO and IRQHI to a timer that the advance to `t` leaves enabled. With `c` the countdown it arms with, running to
`t + c` expires the timer; running to `t + c - 1` leaves it armed with remaining count 1 and pending as the advance to
`t` left it. That the write advances first is decision D10 of the spec (log entry 10). -/
def Obligations.ArmedTimerExpiresAfterExactlyItsCountdown : Prop :=
  ∀ (s s₁ : State) (t : Int) (v : Byte) (i : Instr) (c : BitVec 16),
    let a := advance t s
    ((i = .irqctl t v ∧ v[0] = true ∧ c = a.irqCount) ∨
      (i = .irqlo t v ∧ a.irqEnabled = true ∧ c = a.irqCount.extractLsb' 8 8 ++ v) ∨
      (i = .irqhi t v ∧ a.irqEnabled = true ∧ c = v ++ a.irqCount.extractLsb' 0 8)) →
    exec i s = .next s₁ →
      (∃ s₂, exec (.run (t + c.toNat)) s₁ = .next s₂ ∧
        s₂.irqPending = true ∧ s₂.irqEnabled = false ∧ s₂.irqCount = 0xFFFF) ∧
      (1 ≤ c.toNat →
        ∃ s₂, exec (.run (t + c.toNat - 1)) s₁ = .next s₂ ∧
          s₂.irqPending = a.irqPending ∧ s₂.irqEnabled = true ∧ s₂.irqCount = 1)

/-- R157: an enable of a running timer within its bound (R31) leaves the deadline where it was, and so does a countdown
write whose byte is the one the countdown already has at its time. -/
def Obligations.WritesThatChangeNothingLeaveTheDeadline : Prop :=
  ∀ (s s' : State) (t : Int) (v : Byte), s.irqEnabled = true → t < s.nextTime.toInt → s.timerBound = true →
    (v[0] = true → exec (.irqctl t v) s = .next s' → s'.nextTime = s.nextTime) ∧
    (v = (BitVec.ofInt 16 (s.nextTime.toInt - t)).extractLsb' 0 8 → exec (.irqlo t v) s = .next s' →
      s'.nextTime = s.nextTime) ∧
    (v = (BitVec.ofInt 16 (s.nextTime.toInt - t)).extractLsb' 8 8 → exec (.irqhi t v) s = .next s' →
      s'.nextTime = s.nextTime)

/-- R31: the timer's bound is kept by every step but the load of a block, which installs a deadline of another frame
(R245 (c)). -/
def Obligations.EveryStepButLoadKeepsTheTimerBound : Prop :=
  ∀ (s s' : State), s.timerBound = true →
    (∀ bs, s.inbox.head? ≠ some (.call 6 (.bytes bs))) → step s = .next s' → s'.timerBound = true

/-! ### The cycle-by-cycle reading -/

/-- R164, time: for a timer within its bound, the counter it stands for `n` cycles later is the counter it stands for
now after `n` ticks, and the level of the interrupt line (R163) is that counter's pending flag. -/
def Obligations.TheLazyTimerCountsLikeACycleByCycleCounter : Prop :=
  ∀ (s : State) (x : Int), s.timerBound = true → s.tLast ≤ x →
    (∀ n : Nat, s.counterAt (x + n) = (s.counterAt x).ticks n) ∧
    s.irqLine x = (s.counterAt x).pending

/-- R164, operations: an IRQ write at `t` acts on the counter at `t` as on a counter that runs every cycle; `runUntil`
is invisible; `endFrame(e)` moves the clock by `e` and touches nothing else; the other writes, the queries and
`applyMapping` do not touch the counter at any time. R230: `reset()` leaves a stopped counter at 0xFFFF that is not
pending. R185: `loadState` leaves the block's counter, with pending kept (decision D17 of the spec, log entry 13): that
of a block whose flag is 0 stands still at the block's countdown; that of a block whose flag is 1 has expired from the
block's deadline on, and before it counts the cycles to it (their low 16 bits where they do not fit, log entry 25). -/
def Obligations.OperationsActOnTheCycleByCycleCounter : Prop :=
  ∀ (s s' : State) (t : Int),
    (∀ v, exec (.irqctl t v) s = .next s' → s'.counterAt t = (s.counterAt t).ctl v) ∧
    (∀ v, exec (.irqlo t v) s = .next s' → s'.counterAt t = (s.counterAt t).lo v) ∧
    (∀ v, exec (.irqhi t v) s = .next s' → s'.counterAt t = (s.counterAt t).hi v) ∧
    (exec (.run t) s = .next s' → ∀ x, t ≤ x → s'.counterAt x = s.counterAt x) ∧
    (exec (.endframe t) s = .next s' → ∀ x, 0 ≤ x → s'.counterAt x = s.counterAt (x + t)) ∧
    (∀ v, ∀ i ∈ [Instr.sel t v, .chr0 t v, .chr1 t v, .chr2 t v, .chr3 t v, .chr4 t v, .chr5 t v, .chr6 t v, .chr7 t v,
        .wram t v, .prg0 t v, .prg1 t v, .prg2 t v, .mir t v, .snd t v, .out t v, .nextirq t, .apply, .save],
      exec i s = .next s' → ∀ x, s'.counterAt x = s.counterAt x) ∧
    (exec .reset s = .next s' → ∀ x, s'.counterAt x = { count := 0xFFFF, enabled := false, pending := false }) ∧
    (∀ b, exec (.load b) s = .next s' →
      (byteAt b 13 = 0 →
        ∀ x, s'.counterAt x = { count := getLe16 b 15, enabled := false, pending := s.irqPending }) ∧
      (byteAt b 13 = 1 → ∀ x,
        ((getLe32 b 17).toInt ≤ x → s'.counterAt x = { count := 0xFFFF, enabled := false, pending := true }) ∧
        (x < (getLe32 b 17).toInt →
          s'.counterAt x =
            { count := BitVec.ofInt 16 ((getLe32 b 17).toInt - x), enabled := true, pending := s.irqPending })))

/-! ### The flags, over all operations -/

/-- R29, R202: pending is cleared only by IRQCTL with bit 0 clear or by `reset()`, and set only by an expiry: an operation
that advances the timer to a time at or past the deadline of an enabled timer. -/
def Obligations.OnlyExpirySetsAndOnlyDisablingClearsPending : Prop :=
  ∀ (i : Instr) (s s' : State), exec i s = .next s' →
    (s.irqPending = true → s'.irqPending = false → i = .reset ∨ ∃ t v, i = .irqctl t v ∧ v[0] = false) ∧
    (s.irqPending = false → s'.irqPending = true →
      s.irqEnabled = true ∧ ∃ t, s.nextTime.toInt ≤ t ∧
        (i = .run t ∨ i = .endframe t ∨ ∃ v, i = .irqctl t v ∨ i = .irqlo t v ∨ i = .irqhi t v))

/-- R27: the enable is set only by IRQCTL with bit 0 set, or by the load of a block whose flag byte is 1. It is cleared
only by IRQCTL with bit 0 clear, by an expiry, by `reset()`, or by the load of a block whose flag byte is 0. -/
def Obligations.WhatSetsAndClearsTheEnable : Prop :=
  ∀ (i : Instr) (s s' : State), exec i s = .next s' →
    (s.irqEnabled = false → s'.irqEnabled = true →
      (∃ t v, i = .irqctl t v ∧ v[0] = true) ∨ ∃ b, i = .load b ∧ byteAt b 13 = 1) ∧
    (s.irqEnabled = true → s'.irqEnabled = false →
      i = .reset ∨ (∃ b, i = .load b ∧ byteAt b 13 = 0) ∨ (∃ t v, i = .irqctl t v ∧ v[0] = false) ∨
      ∃ t, s.nextTime.toInt ≤ t ∧
        (i = .run t ∨ i = .endframe t ∨ ∃ v, i = .irqlo t v ∨ i = .irqhi t v))

/-- R28, R166: while disabled the countdown holds its value under every operation but the two byte writes, `reset()` and
`loadState`: there is no reload and no periodic mode. -/
def Obligations.ADisabledCountdownHolds : Prop :=
  ∀ (i : Instr) (s s' : State), exec i s = .next s' → s.irqEnabled = false →
    s'.irqCount = s.irqCount ∨ i = .reset ∨ (∃ b, i = .load b) ∨ ∃ t v, i = .irqlo t v ∨ i = .irqhi t v

/-! ### The registers and the outputs, over all operations -/

/-- R22 to R26 and R30, "written by": each register changes only under its own write, `reset()` and `loadState`; the
deadline only under an arming, a rebasing, `reset()` and `loadState`. -/
def Obligations.EachRegisterHasOnlyItsOwnWriters : Prop :=
  ∀ (i : Instr) (s s' : State), exec i s = .next s' → i ≠ .reset → (∀ b, i ≠ .load b) →
    (∀ j : Fin 8, s'.chrBanks[j] = s.chrBanks[j] ∨ i.mnemonic = "CHR" ++ toString j.val) ∧
    (∀ k : Fin 3, s'.prgBanks[k] = s.prgBanks[k] ∨ i.mnemonic = "PRG" ++ toString k.val) ∧
    (s'.wramControl = s.wramControl ∨ i.mnemonic = "WRAM") ∧
    (s'.mirroring = s.mirroring ∨ i.mnemonic = "MIR") ∧
    (s'.command = s.command ∨ i.mnemonic = "SEL") ∧
    (s'.nextTime = s.nextTime ∨ i.mnemonic ∈ ["IRQCTL", "IRQLO", "IRQHI", "ENDFRAME"])

/-- R55, R128: what each operation adds to the output trace: one call for a bank or mirroring write, thirteen for
`applyMapping`, fourteen for `reset`, none for any other; calls already made are never undone. -/
def Obligations.HowManyCallsEachOperationMakes : Prop :=
  ∀ (i : Instr) (s s' : State), exec i s = .next s' →
    ∃ calls, s'.trace = s.trace ++ calls ∧
      calls.length =
        (if i.mnemonic ∈ ["CHR0", "CHR1", "CHR2", "CHR3", "CHR4", "CHR5", "CHR6", "CHR7", "WRAM", "PRG0", "PRG1", "PRG2",
            "MIR"] then 1
         else if i = .apply then 13
         else if i = .reset then 14
         else 0)

/-- R33, R65: the time bookkeeping. A write or `runUntil` leaves its own time, which was not before the last one;
`endFrame` and `reset` leave 0; the other host operations leave it alone. The parameters and the waiting requests are
changed by no operation. -/
def Obligations.TheTimeBookkeepingOfEveryOperation : Prop :=
  ∀ (i : Instr) (s s' : State), exec i s = .next s' →
    s'.cfg = s.cfg ∧ s'.inbox = s.inbox ∧ s'.resetDone = true ∧
    match i.encoding with
    | .write _ _ t _ => s.tLast ≤ t ∧ s'.tLast = t
    | .call _ _ =>
      (∀ t, i = .run t → s.tLast ≤ t ∧ s'.tLast = t) ∧ (∀ t, i = .endframe t → s.tLast ≤ t ∧ s'.tLast = 0) ∧
      (i = .reset → s'.tLast = 0) ∧
      ((∃ x, i = .nextirq x) ∨ i = .apply ∨ i = .save ∨ (∃ b, i = .load b) → s'.tLast = s.tLast)

/-- R88: there is no illegal or trapping encoding. Every write at every address decodes, whatever the latch; no write
raises a fault in any state; and under the caller's obligations (R65, R152, R232) every write is accepted. -/
def Obligations.NoWriteIsRejectedOrTraps : Prop :=
  ∀ (c : Config) (latch : Latch) (t : Int) (a : Addr) (v : Byte),
    ∃ i, decode c latch (.write t a v) = .ok i ∧
      (∀ (s : State) (r : Fault), exec i s ≠ .fault r) ∧
      (∀ s : State, s.accepts t → clockFits t → ∃ s', exec i s = .next s')

/-- R160, R200: the assertion of `endFrame` cannot fail, in any state: no operation faults. -/
def Obligations.NoOperationRaisesContractFailure : Prop :=
  (∀ (i : Instr) (s : State) (r : Fault), exec i s ≠ .fault r) ∧ (∀ (s : State) (r : Fault), step s ≠ .fault r)

/-- R37, R65, R240 (decisions D18, D24 of the spec): before the first `reset()` every operation but RESET is refused, and
a write, `runUntil` or `endFrame` whose time lies before the last one is refused; nothing is changed. -/
def Obligations.BrokenObligationsAreRefused : Prop :=
  (∀ (i : Instr) (s : State), s.resetDone = false → i ≠ .reset → exec i s = .refused .beforeReset) ∧
  (∀ (i : Instr) (s : State) (r : Region) (l : Option Latch) (t : Int) (v : Byte),
    i.encoding = .write r l t v → s.resetDone = true → t < s.tLast →
      exec i s = .refused (.timeBackwards t s.tLast)) ∧
  (∀ (s : State) (t : Int), s.resetDone = true → t < s.tLast →
    exec (.run t) s = .refused (.timeBackwards t s.tLast) ∧
    exec (.endframe t) s = .refused (.timeBackwards t s.tLast))

/-! ### Reset and the host operations -/

/-- R230, R38 (decisions D2, D6, D7 and D12 of the spec for the numbers it supplies). RESET completes from every state,
installs the reset values, pins the topmost window to the last bank and then makes the thirteen calls of `applyMapping`;
it does not depend on the registers before it. -/
def Obligations.ResetInstallsTheResetValuesAndMakesFourteenCalls : Prop :=
  ∀ s : State, exec .reset s = .next { s with
    mirroring := 0, prgBanks := #v[0, 0, 0], chrBanks := #v[0, 0, 0, 0, 0, 0, 0, 0], command := 0
    irqEnabled := false, irqCount := 0xFFFF, wramControl := 0xC0, irqPending := false, nextTime := 0
    tLast := 0, resetDone := true, answer := .nothing
    trace := s.trace ++
      [.setProgramBank (s.cfg.prgBase + 0x6000) .kib8 .last,
       .setProgramBank s.cfg.prgBase .kib8 (.idx 0), .setProgramBank (s.cfg.prgBase + 0x2000) .kib8 (.idx 0),
       .setProgramBank (s.cfg.prgBase + 0x4000) .kib8 (.idx 0),
       .setGraphicsBank 0x0000 .kib1 (.idx 0), .setGraphicsBank 0x0400 .kib1 (.idx 0),
       .setGraphicsBank 0x0800 .kib1 (.idx 0), .setGraphicsBank 0x0C00 .kib1 (.idx 0),
       .setGraphicsBank 0x1000 .kib1 (.idx 0), .setGraphicsBank 0x1400 .kib1 (.idx 0),
       .setGraphicsBank 0x1800 .kib1 (.idx 0), .setGraphicsBank 0x1C00 .kib1 (.idx 0),
       .setMirrorVertical, .enableExtraRam true] }

/-- R37, R38, R232: the state after reset is what `reset()` leaves on a fresh instance with the default parameters,
whatever its registers held. -/
def Obligations.TheResetStateIsWhatResetLeaves : Prop :=
  ∀ s : State, s.cfg = defaultConfig → s.trace = [] → s.inbox = [] → exec .reset s = .next State.reset

/-- R180 (decisions D15 and D21 of the spec). APPLY completes after any reset, makes thirteen calls in the order program
banks, graphics banks, mirroring, extra-RAM control, and changes no register. -/
def Obligations.ApplyMakesThirteenCallsInOrder : Prop :=
  ∀ s : State, s.resetDone = true → exec .apply s = .next { s with
    answer := .nothing
    trace := s.trace ++
      [.setProgramBank s.cfg.prgBase .kib8 (.idx s.prgBanks[0]),
       .setProgramBank (s.cfg.prgBase + 0x2000) .kib8 (.idx s.prgBanks[1]),
       .setProgramBank (s.cfg.prgBase + 0x4000) .kib8 (.idx s.prgBanks[2]),
       .setGraphicsBank 0x0000 .kib1 (.idx s.chrBanks[0]), .setGraphicsBank 0x0400 .kib1 (.idx s.chrBanks[1]),
       .setGraphicsBank 0x0800 .kib1 (.idx s.chrBanks[2]), .setGraphicsBank 0x0C00 .kib1 (.idx s.chrBanks[3]),
       .setGraphicsBank 0x1000 .kib1 (.idx s.chrBanks[4]), .setGraphicsBank 0x1400 .kib1 (.idx s.chrBanks[5]),
       .setGraphicsBank 0x1800 .kib1 (.idx s.chrBanks[6]), .setGraphicsBank 0x1C00 .kib1 (.idx s.chrBanks[7]),
       mirrorCall s.mirroring,
       if s.wramControl[6] then .enableExtraRam (s.wramControl[7])
       else .setProgramBank s.cfg.wramBase .kib8 (.idx ((s.wramControl.extractLsb' 0 6).setWidth 8))] }

/-- R128 (c), first half of the guarantee: with well-formed parameters the bus stays current under every step but the
load of a block, which changes registers without a call; `applyMapping` makes it current from any state. -/
def Obligations.EveryStepButLoadKeepsTheBusCurrent : Prop :=
  (∀ (s s' : State), s.cfg.wf = true → s.busCurrent = true →
    (∀ bs, s.inbox.head? ≠ some (.call 6 (.bytes bs))) → step s = .next s' → s'.busCurrent = true) ∧
  (∀ (s s' : State), s.cfg.wf = true → exec .apply s = .next s' → s'.busCurrent = true)

/-- R182, the `applyMapping` guarantee: on a bus that is current, `applyMapping` changes nothing the bus holds. -/
def Obligations.ApplyLeavesACurrentBusUnchanged : Prop :=
  ∀ s : State, s.resetDone = true → s.busCurrent = true →
    ∃ s', exec .apply s = .next s' ∧ s'.bus = s.bus

/-- R183, R184 (decisions D14 and D16 of the spec). SAVE completes after any reset and returns the 21 bytes; it changes no
state of the chip and makes no call. -/
def Obligations.SaveReturnsTheBlockOfTheRegisters : Prop :=
  ∀ s : State, s.resetDone = true → exec .save s = .next { s with
    answer := .block
      [s.mirroring.setWidth 8, s.prgBanks[0], s.prgBanks[1], s.prgBanks[2],
       s.chrBanks[0], s.chrBanks[1], s.chrBanks[2], s.chrBanks[3],
       s.chrBanks[4], s.chrBanks[5], s.chrBanks[6], s.chrBanks[7],
       s.command.setWidth 8, if s.irqEnabled then 0x01 else 0x00, s.wramControl,
       s.irqCount.extractLsb' 0 8, s.irqCount.extractLsb' 8 8,
       s.nextTime.extractLsb' 0 8, s.nextTime.extractLsb' 8 8, s.nextTime.extractLsb' 16 8,
       s.nextTime.extractLsb' 24 8] }

/-- R185 (decisions D17 and D22 of the spec). LOAD of a block with a mode of at most 3, a latch of at most 15 and a flag
of at most 1 completes: it installs the registers of the block, keeps `irqPending` and the time bookkeeping, and makes no
call. Any other block is refused. -/
def Obligations.LoadInstallsTheBlockOrRefusesIt : Prop :=
  ∀ (s : State), s.resetDone = true →
    (∀ b₀ b₁ b₂ b₃ b₄ b₅ b₆ b₇ b₈ b₉ b₁₀ b₁₁ b₁₂ b₁₃ b₁₄ b₁₅ b₁₆ b₁₇ b₁₈ b₁₉ b₂₀ : Byte,
      b₀.toNat ≤ 3 → b₁₂.toNat ≤ 15 → b₁₃.toNat ≤ 1 →
      exec (.load [b₀, b₁, b₂, b₃, b₄, b₅, b₆, b₇, b₈, b₉, b₁₀, b₁₁, b₁₂, b₁₃, b₁₄, b₁₅, b₁₆, b₁₇, b₁₈, b₁₉, b₂₀]) s =
        .next { s with
          mirroring := b₀.extractLsb' 0 2, prgBanks := #v[b₁, b₂, b₃]
          chrBanks := #v[b₄, b₅, b₆, b₇, b₈, b₉, b₁₀, b₁₁], command := b₁₂.extractLsb' 0 4
          irqEnabled := b₁₃[0], wramControl := b₁₄, irqCount := b₁₆ ++ b₁₅
          nextTime := b₂₀ ++ b₁₉ ++ b₁₈ ++ b₁₇, answer := .nothing }) ∧
    (∀ b : List Byte,
      (b.length ≠ 21 ∨ 3 < (byteAt b 0).toNat ∨ 15 < (byteAt b 12).toNat ∨ 1 < (byteAt b 13).toNat) →
        exec (.load b) s = .refused .malformedBlock)

/-- R185, U7: the blocks that LOAD accepts are exactly those that SAVE can produce. -/
def Obligations.LoadAcceptsExactlyTheBlocksSaveProduces : Prop :=
  ∀ b : List Byte, blockOk b = true ↔ ∃ s : State, s.block = b

/-- R186, the round trip. The block saved in `s`, loaded into a freshly reset instance on a fresh bus and followed by
`applyMapping`, reproduces every register and the deadline; nothing is pending; and of a current bus with the topmost
window pinned, the topmost window, the program windows, the graphics windows, the mirroring and the entry that
`wramControl[6]` selects are reproduced. That the first bus is current is a premise, because a LOAD changes registers
without a call (log entry 12). -/
def Obligations.SaveThenLoadOnAFreshInstanceReproducesTheChip : Prop :=
  ∀ (s f : State), s.inv = true → s.busCurrent = true → f.cfg = s.cfg → f.trace = [] →
    ∃ s' b f₁ f₂ f₃,
      exec .save s = .next s' ∧ s'.answer = .block b ∧
      exec .reset f = .next f₁ ∧ exec (.load b) f₁ = .next f₂ ∧ exec .apply f₂ = .next f₃ ∧
      f₃.mirroring = s.mirroring ∧ f₃.prgBanks = s.prgBanks ∧ f₃.chrBanks = s.chrBanks ∧ f₃.command = s.command ∧
      f₃.irqEnabled = s.irqEnabled ∧ f₃.irqCount = s.irqCount ∧ f₃.wramControl = s.wramControl ∧
      f₃.nextTime = s.nextTime ∧ f₃.irqPending = false ∧
      (∀ k : Fin 4, BankMap.get (prgWindow s.cfg k.val) f₃.bus.prgWin = BankMap.get (prgWindow s.cfg k.val) s.bus.prgWin) ∧
      (∀ i : Fin 8, BankMap.get i.val f₃.bus.chrWin = BankMap.get i.val s.bus.chrWin) ∧
      f₃.bus.mirror = s.bus.mirror ∧
      (s.wramControl[6] = true → f₃.bus.extraRam = s.bus.extraRam ∧
        BankMap.get s.cfg.wramBase f₃.bus.prgWin = none) ∧
      (s.wramControl[6] = false →
        BankMap.get s.cfg.wramBase f₃.bus.prgWin = BankMap.get s.cfg.wramBase s.bus.prgWin ∧
        f₃.bus.extraRam = some true)

/-- R52, R54: each `get` after the matching `set` returns the value stored, for both byte orders and both widths, and a
`set` leaves the bytes outside its own alone. -/
def Obligations.TheEndianCodecReadsBackWhatItStores : Prop :=
  ∀ (b : List Byte) (o : Nat),
    (o + 2 ≤ b.length → ∀ v : BitVec 16,
      getLe16 (setLe16 b o v) o = v ∧ getBe16 (setBe16 b o v) o = v ∧
      ∀ j, j < o ∨ o + 2 ≤ j → byteAt (setLe16 b o v) j = byteAt b j ∧ byteAt (setBe16 b o v) j = byteAt b j) ∧
    (o + 4 ≤ b.length → ∀ v : BitVec 32,
      getLe32 (setLe32 b o v) o = v ∧ getBe32 (setBe32 b o v) o = v ∧
      ∀ j, j < o ∨ o + 4 ≤ j → byteAt (setLe32 b o v) j = byteAt b j ∧ byteAt (setBe32 b o v) j = byteAt b j)

/-! ### Whole-machine invariants -/

/-- R56 to R59, R125, R161, R231: every step keeps the invariant: the parameters stay well formed, time is not negative,
every call made is one the chip may make, and the topmost program window shows the last bank. -/
def Obligations.EveryStepKeepsTheInvariant : Prop :=
  ∀ s s' : State, s.inv = true → step s = .next s' → s'.inv = true

/-- The three invariants hold of the state after reset. -/
def Obligations.TheInvariantsHoldAfterReset : Prop :=
  State.reset.inv = true ∧ State.reset.timerBound = true ∧ State.reset.busCurrent = true

/-! ### The multiplexer and the mirroring seen from outside -/

/-- R62 (PRESUMED, log entry 9: the read side is general knowledge). With the default parameters, on a current bus with
the topmost window pinned, what a CPU read shows is the bank that address bits 15:13 choose and the offset of bits 12:0,
in the windows the chip programs, on every bus: in the command-0x8 window under the premise that the bus's rule shows
the program bank there (U4, log entry 28); and what a graphics read shows is the bank that address bits 12:10 choose. -/
def Obligations.TheBusShowsTheBanksTheMultiplexerChooses : Prop :=
  ∀ s : State, s.cfg = defaultConfig → s.inv = true → s.busCurrent = true →
    (∀ (rule : BusView → Bool) (a : Addr) (x : BankIdx), s.programMux a = some x →
      (a.extractLsb' 13 3 = 0b011 → rule s.bus = true) →
      s.bus.cpuRead s.cfg rule a = some (x, (a.extractLsb' 0 13).toNat)) ∧
    (∀ o : BitVec 13, s.bus.graphicsRead o.toNat = some (s.graphicsMux o, (o.extractLsb' 0 10).toNat))

/-- R141, R142, R143 (PRESUMED: which nametable is shown is general knowledge, log entry 9, and so is the width of a
video address, log entry 29). After a mirroring write the
bus holds the arrangement of the stored mode, and the circuit's address bit chooses the nametable that arrangement
shows. -/
def Obligations.MirroringDecoderShowsTheArrangementOfTheMode : Prop :=
  (∀ (s s' : State) (t : Int) (v : Byte), exec (.mir t v) s = .next s' → s'.bus.mirror = some s'.arrangement) ∧
  (∀ (s : State) (a : BitVec 14),
    s.arrangement.shows (a.extractLsb' 10 2).toFin = if s.nametableBit a = true then .b else .a)

/-! ### Loading the countdown -/

/-- R241, R93: the safe sequence IRQOFF, SETCOUNT `n`, IRQON, delivered at one time `t`, arms exactly `t + n`, with nothing
pending, whatever the timer did before; the bank registers stay. -/
def Obligations.TheSafeSequenceArmsExactlyTheCount : Prop :=
  ∀ (s : State) (t : Int) (n : BitVec 16), s.cfg.wf = true → s.accepts t → clockFits t →
    s.inbox = pseudoIrqOff s.cfg t ++ pseudoSetCount s.cfg t n ++ pseudoIrqOn s.cfg t →
    Sys2Proof.core.run 8 s = .next { s with
      command := 0xD, irqEnabled := true, irqPending := false, irqCount := n
      nextTime := BitVec.ofInt 32 (t + n.toNat), tLast := t, answer := .nothing, inbox := [] }

/-! ### The byte a read returns -/

/-- R62, R61 (PRESUMED, log entry 9: the read side is general knowledge; log entry 20: `LAST`). With the default parameters, on
a current bus with the topmost window pinned, a read returns the byte of the memory at the chosen register's value above
the window's offset bits, on every bus: an index below the number of banks drives the memory's upper address bits itself,
whatever the bus does past the end (U3); `LAST` is the last bank; and past the end the bus's function of index and size
is the bank. In the command-0x8 window the premise is that the bus's rule shows the program bank (U4, log entry 28). -/
def Obligations.AReadReturnsTheByteAtTheBankAndTheOffset : Prop :=
  ∀ (s : State) (rule : BusView → Bool) (reduce : Nat → Nat → Nat) (banks : Nat) (rom : List Byte),
    s.cfg = defaultConfig → s.inv = true → s.busCurrent = true →
    (rom.length = banks * 0x2000 → ∀ a : Addr, (a.extractLsb' 13 3 = 0b011 → rule s.bus = true) →
      (∀ n : Byte, s.programMux a = some (.idx n) →
        (n.toNat < banks → ∃ b, rom[(n ++ a.extractLsb' 0 13).toNat]? = some b ∧
          programByte s.cfg rule reduce banks rom s.bus a = some b) ∧
        (banks ≤ n.toNat → programByte s.cfg rule reduce banks rom s.bus a =
          rom[reduce n.toNat banks * 0x2000 + (a.extractLsb' 0 13).toNat]?)) ∧
      (s.programMux a = some .last → 0 < banks →
        ∃ b, rom[(banks - 1) * 0x2000 + (a.extractLsb' 0 13).toNat]? = some b ∧
          programByte s.cfg rule reduce banks rom s.bus a = some b)) ∧
    (rom.length = banks * 0x400 → ∀ (o : BitVec 13) (n : Byte), s.graphicsMux o = .idx n →
      (n.toNat < banks → ∃ b, rom[(n ++ o.extractLsb' 0 10).toNat]? = some b ∧
        graphicsByte reduce banks rom s.bus o.toNat = some b) ∧
      (banks ≤ n.toNat → graphicsByte reduce banks rom s.bus o.toNat =
        rom[reduce n.toNat banks * 0x400 + (o.extractLsb' 0 10).toNat]?))
end

