-- ==== Sys2Proof/Laws/State.lean ====
section
/-! SUPPORT. One lemma per field per update, true by `rfl`, so that no later proof unfolds a record update. -/

namespace Sys2Proof.Machine

variable (s : State)

/-! ### `setMirroring` -/

@[simp] theorem State.setMirroring_mirroring (m : BitVec 2) : (s.setMirroring m).mirroring = m := rfl
@[simp] theorem State.setMirroring_prgBanks (m : BitVec 2) : (s.setMirroring m).prgBanks = s.prgBanks := rfl
@[simp] theorem State.setMirroring_chrBanks (m : BitVec 2) : (s.setMirroring m).chrBanks = s.chrBanks := rfl
@[simp] theorem State.setMirroring_command (m : BitVec 2) : (s.setMirroring m).command = s.command := rfl
@[simp] theorem State.setMirroring_irqEnabled (m : BitVec 2) : (s.setMirroring m).irqEnabled = s.irqEnabled := rfl
@[simp] theorem State.setMirroring_irqCount (m : BitVec 2) : (s.setMirroring m).irqCount = s.irqCount := rfl
@[simp] theorem State.setMirroring_wramControl (m : BitVec 2) : (s.setMirroring m).wramControl = s.wramControl := rfl
@[simp] theorem State.setMirroring_irqPending (m : BitVec 2) : (s.setMirroring m).irqPending = s.irqPending := rfl
@[simp] theorem State.setMirroring_nextTime (m : BitVec 2) : (s.setMirroring m).nextTime = s.nextTime := rfl
@[simp] theorem State.setMirroring_tLast (m : BitVec 2) : (s.setMirroring m).tLast = s.tLast := rfl
@[simp] theorem State.setMirroring_resetDone (m : BitVec 2) : (s.setMirroring m).resetDone = s.resetDone := rfl
@[simp] theorem State.setMirroring_trace (m : BitVec 2) : (s.setMirroring m).trace = s.trace := rfl
@[simp] theorem State.setMirroring_answer (m : BitVec 2) : (s.setMirroring m).answer = s.answer := rfl
@[simp] theorem State.setMirroring_inbox (m : BitVec 2) : (s.setMirroring m).inbox = s.inbox := rfl
@[simp] theorem State.setMirroring_cfg (m : BitVec 2) : (s.setMirroring m).cfg = s.cfg := rfl

/-! ### `setPrg` -/

@[simp] theorem State.setPrg_mirroring (k : Fin 3) (v : Byte) : (s.setPrg k v).mirroring = s.mirroring := rfl
@[simp] theorem State.setPrg_prgBanks (k : Fin 3) (v : Byte) : (s.setPrg k v).prgBanks = s.prgBanks.set k v := rfl
@[simp] theorem State.setPrg_chrBanks (k : Fin 3) (v : Byte) : (s.setPrg k v).chrBanks = s.chrBanks := rfl
@[simp] theorem State.setPrg_command (k : Fin 3) (v : Byte) : (s.setPrg k v).command = s.command := rfl
@[simp] theorem State.setPrg_irqEnabled (k : Fin 3) (v : Byte) : (s.setPrg k v).irqEnabled = s.irqEnabled := rfl
@[simp] theorem State.setPrg_irqCount (k : Fin 3) (v : Byte) : (s.setPrg k v).irqCount = s.irqCount := rfl
@[simp] theorem State.setPrg_wramControl (k : Fin 3) (v : Byte) : (s.setPrg k v).wramControl = s.wramControl := rfl
@[simp] theorem State.setPrg_irqPending (k : Fin 3) (v : Byte) : (s.setPrg k v).irqPending = s.irqPending := rfl
@[simp] theorem State.setPrg_nextTime (k : Fin 3) (v : Byte) : (s.setPrg k v).nextTime = s.nextTime := rfl
@[simp] theorem State.setPrg_tLast (k : Fin 3) (v : Byte) : (s.setPrg k v).tLast = s.tLast := rfl
@[simp] theorem State.setPrg_resetDone (k : Fin 3) (v : Byte) : (s.setPrg k v).resetDone = s.resetDone := rfl
@[simp] theorem State.setPrg_trace (k : Fin 3) (v : Byte) : (s.setPrg k v).trace = s.trace := rfl
@[simp] theorem State.setPrg_answer (k : Fin 3) (v : Byte) : (s.setPrg k v).answer = s.answer := rfl
@[simp] theorem State.setPrg_inbox (k : Fin 3) (v : Byte) : (s.setPrg k v).inbox = s.inbox := rfl
@[simp] theorem State.setPrg_cfg (k : Fin 3) (v : Byte) : (s.setPrg k v).cfg = s.cfg := rfl

/-! ### `setChr` -/

@[simp] theorem State.setChr_mirroring (i : Fin 8) (v : Byte) : (s.setChr i v).mirroring = s.mirroring := rfl
@[simp] theorem State.setChr_prgBanks (i : Fin 8) (v : Byte) : (s.setChr i v).prgBanks = s.prgBanks := rfl
@[simp] theorem State.setChr_chrBanks (i : Fin 8) (v : Byte) : (s.setChr i v).chrBanks = s.chrBanks.set i v := rfl
@[simp] theorem State.setChr_command (i : Fin 8) (v : Byte) : (s.setChr i v).command = s.command := rfl
@[simp] theorem State.setChr_irqEnabled (i : Fin 8) (v : Byte) : (s.setChr i v).irqEnabled = s.irqEnabled := rfl
@[simp] theorem State.setChr_irqCount (i : Fin 8) (v : Byte) : (s.setChr i v).irqCount = s.irqCount := rfl
@[simp] theorem State.setChr_wramControl (i : Fin 8) (v : Byte) : (s.setChr i v).wramControl = s.wramControl := rfl
@[simp] theorem State.setChr_irqPending (i : Fin 8) (v : Byte) : (s.setChr i v).irqPending = s.irqPending := rfl
@[simp] theorem State.setChr_nextTime (i : Fin 8) (v : Byte) : (s.setChr i v).nextTime = s.nextTime := rfl
@[simp] theorem State.setChr_tLast (i : Fin 8) (v : Byte) : (s.setChr i v).tLast = s.tLast := rfl
@[simp] theorem State.setChr_resetDone (i : Fin 8) (v : Byte) : (s.setChr i v).resetDone = s.resetDone := rfl
@[simp] theorem State.setChr_trace (i : Fin 8) (v : Byte) : (s.setChr i v).trace = s.trace := rfl
@[simp] theorem State.setChr_answer (i : Fin 8) (v : Byte) : (s.setChr i v).answer = s.answer := rfl
@[simp] theorem State.setChr_inbox (i : Fin 8) (v : Byte) : (s.setChr i v).inbox = s.inbox := rfl
@[simp] theorem State.setChr_cfg (i : Fin 8) (v : Byte) : (s.setChr i v).cfg = s.cfg := rfl

/-! ### `setCommand` -/

@[simp] theorem State.setCommand_mirroring (l : Latch) : (s.setCommand l).mirroring = s.mirroring := rfl
@[simp] theorem State.setCommand_prgBanks (l : Latch) : (s.setCommand l).prgBanks = s.prgBanks := rfl
@[simp] theorem State.setCommand_chrBanks (l : Latch) : (s.setCommand l).chrBanks = s.chrBanks := rfl
@[simp] theorem State.setCommand_command (l : Latch) : (s.setCommand l).command = l := rfl
@[simp] theorem State.setCommand_irqEnabled (l : Latch) : (s.setCommand l).irqEnabled = s.irqEnabled := rfl
@[simp] theorem State.setCommand_irqCount (l : Latch) : (s.setCommand l).irqCount = s.irqCount := rfl
@[simp] theorem State.setCommand_wramControl (l : Latch) : (s.setCommand l).wramControl = s.wramControl := rfl
@[simp] theorem State.setCommand_irqPending (l : Latch) : (s.setCommand l).irqPending = s.irqPending := rfl
@[simp] theorem State.setCommand_nextTime (l : Latch) : (s.setCommand l).nextTime = s.nextTime := rfl
@[simp] theorem State.setCommand_tLast (l : Latch) : (s.setCommand l).tLast = s.tLast := rfl
@[simp] theorem State.setCommand_resetDone (l : Latch) : (s.setCommand l).resetDone = s.resetDone := rfl
@[simp] theorem State.setCommand_trace (l : Latch) : (s.setCommand l).trace = s.trace := rfl
@[simp] theorem State.setCommand_answer (l : Latch) : (s.setCommand l).answer = s.answer := rfl
@[simp] theorem State.setCommand_inbox (l : Latch) : (s.setCommand l).inbox = s.inbox := rfl
@[simp] theorem State.setCommand_cfg (l : Latch) : (s.setCommand l).cfg = s.cfg := rfl

/-! ### `setEnabled` -/

@[simp] theorem State.setEnabled_mirroring (b : Bool) : (s.setEnabled b).mirroring = s.mirroring := rfl
@[simp] theorem State.setEnabled_prgBanks (b : Bool) : (s.setEnabled b).prgBanks = s.prgBanks := rfl
@[simp] theorem State.setEnabled_chrBanks (b : Bool) : (s.setEnabled b).chrBanks = s.chrBanks := rfl
@[simp] theorem State.setEnabled_command (b : Bool) : (s.setEnabled b).command = s.command := rfl
@[simp] theorem State.setEnabled_irqEnabled (b : Bool) : (s.setEnabled b).irqEnabled = b := rfl
@[simp] theorem State.setEnabled_irqCount (b : Bool) : (s.setEnabled b).irqCount = s.irqCount := rfl
@[simp] theorem State.setEnabled_wramControl (b : Bool) : (s.setEnabled b).wramControl = s.wramControl := rfl
@[simp] theorem State.setEnabled_irqPending (b : Bool) : (s.setEnabled b).irqPending = s.irqPending := rfl
@[simp] theorem State.setEnabled_nextTime (b : Bool) : (s.setEnabled b).nextTime = s.nextTime := rfl
@[simp] theorem State.setEnabled_tLast (b : Bool) : (s.setEnabled b).tLast = s.tLast := rfl
@[simp] theorem State.setEnabled_resetDone (b : Bool) : (s.setEnabled b).resetDone = s.resetDone := rfl
@[simp] theorem State.setEnabled_trace (b : Bool) : (s.setEnabled b).trace = s.trace := rfl
@[simp] theorem State.setEnabled_answer (b : Bool) : (s.setEnabled b).answer = s.answer := rfl
@[simp] theorem State.setEnabled_inbox (b : Bool) : (s.setEnabled b).inbox = s.inbox := rfl
@[simp] theorem State.setEnabled_cfg (b : Bool) : (s.setEnabled b).cfg = s.cfg := rfl

/-! ### `setCount` -/

@[simp] theorem State.setCount_mirroring (c : BitVec 16) : (s.setCount c).mirroring = s.mirroring := rfl
@[simp] theorem State.setCount_prgBanks (c : BitVec 16) : (s.setCount c).prgBanks = s.prgBanks := rfl
@[simp] theorem State.setCount_chrBanks (c : BitVec 16) : (s.setCount c).chrBanks = s.chrBanks := rfl
@[simp] theorem State.setCount_command (c : BitVec 16) : (s.setCount c).command = s.command := rfl
@[simp] theorem State.setCount_irqEnabled (c : BitVec 16) : (s.setCount c).irqEnabled = s.irqEnabled := rfl
@[simp] theorem State.setCount_irqCount (c : BitVec 16) : (s.setCount c).irqCount = c := rfl
@[simp] theorem State.setCount_wramControl (c : BitVec 16) : (s.setCount c).wramControl = s.wramControl := rfl
@[simp] theorem State.setCount_irqPending (c : BitVec 16) : (s.setCount c).irqPending = s.irqPending := rfl
@[simp] theorem State.setCount_nextTime (c : BitVec 16) : (s.setCount c).nextTime = s.nextTime := rfl
@[simp] theorem State.setCount_tLast (c : BitVec 16) : (s.setCount c).tLast = s.tLast := rfl
@[simp] theorem State.setCount_resetDone (c : BitVec 16) : (s.setCount c).resetDone = s.resetDone := rfl
@[simp] theorem State.setCount_trace (c : BitVec 16) : (s.setCount c).trace = s.trace := rfl
@[simp] theorem State.setCount_answer (c : BitVec 16) : (s.setCount c).answer = s.answer := rfl
@[simp] theorem State.setCount_inbox (c : BitVec 16) : (s.setCount c).inbox = s.inbox := rfl
@[simp] theorem State.setCount_cfg (c : BitVec 16) : (s.setCount c).cfg = s.cfg := rfl

/-! ### `setWram` -/

@[simp] theorem State.setWram_mirroring (v : Byte) : (s.setWram v).mirroring = s.mirroring := rfl
@[simp] theorem State.setWram_prgBanks (v : Byte) : (s.setWram v).prgBanks = s.prgBanks := rfl
@[simp] theorem State.setWram_chrBanks (v : Byte) : (s.setWram v).chrBanks = s.chrBanks := rfl
@[simp] theorem State.setWram_command (v : Byte) : (s.setWram v).command = s.command := rfl
@[simp] theorem State.setWram_irqEnabled (v : Byte) : (s.setWram v).irqEnabled = s.irqEnabled := rfl
@[simp] theorem State.setWram_irqCount (v : Byte) : (s.setWram v).irqCount = s.irqCount := rfl
@[simp] theorem State.setWram_wramControl (v : Byte) : (s.setWram v).wramControl = v := rfl
@[simp] theorem State.setWram_irqPending (v : Byte) : (s.setWram v).irqPending = s.irqPending := rfl
@[simp] theorem State.setWram_nextTime (v : Byte) : (s.setWram v).nextTime = s.nextTime := rfl
@[simp] theorem State.setWram_tLast (v : Byte) : (s.setWram v).tLast = s.tLast := rfl
@[simp] theorem State.setWram_resetDone (v : Byte) : (s.setWram v).resetDone = s.resetDone := rfl
@[simp] theorem State.setWram_trace (v : Byte) : (s.setWram v).trace = s.trace := rfl
@[simp] theorem State.setWram_answer (v : Byte) : (s.setWram v).answer = s.answer := rfl
@[simp] theorem State.setWram_inbox (v : Byte) : (s.setWram v).inbox = s.inbox := rfl
@[simp] theorem State.setWram_cfg (v : Byte) : (s.setWram v).cfg = s.cfg := rfl

/-! ### `setPending` -/

@[simp] theorem State.setPending_mirroring (b : Bool) : (s.setPending b).mirroring = s.mirroring := rfl
@[simp] theorem State.setPending_prgBanks (b : Bool) : (s.setPending b).prgBanks = s.prgBanks := rfl
@[simp] theorem State.setPending_chrBanks (b : Bool) : (s.setPending b).chrBanks = s.chrBanks := rfl
@[simp] theorem State.setPending_command (b : Bool) : (s.setPending b).command = s.command := rfl
@[simp] theorem State.setPending_irqEnabled (b : Bool) : (s.setPending b).irqEnabled = s.irqEnabled := rfl
@[simp] theorem State.setPending_irqCount (b : Bool) : (s.setPending b).irqCount = s.irqCount := rfl
@[simp] theorem State.setPending_wramControl (b : Bool) : (s.setPending b).wramControl = s.wramControl := rfl
@[simp] theorem State.setPending_irqPending (b : Bool) : (s.setPending b).irqPending = b := rfl
@[simp] theorem State.setPending_nextTime (b : Bool) : (s.setPending b).nextTime = s.nextTime := rfl
@[simp] theorem State.setPending_tLast (b : Bool) : (s.setPending b).tLast = s.tLast := rfl
@[simp] theorem State.setPending_resetDone (b : Bool) : (s.setPending b).resetDone = s.resetDone := rfl
@[simp] theorem State.setPending_trace (b : Bool) : (s.setPending b).trace = s.trace := rfl
@[simp] theorem State.setPending_answer (b : Bool) : (s.setPending b).answer = s.answer := rfl
@[simp] theorem State.setPending_inbox (b : Bool) : (s.setPending b).inbox = s.inbox := rfl
@[simp] theorem State.setPending_cfg (b : Bool) : (s.setPending b).cfg = s.cfg := rfl

/-! ### `setNextTime` -/

@[simp] theorem State.setNextTime_mirroring (d : BitVec 32) : (s.setNextTime d).mirroring = s.mirroring := rfl
@[simp] theorem State.setNextTime_prgBanks (d : BitVec 32) : (s.setNextTime d).prgBanks = s.prgBanks := rfl
@[simp] theorem State.setNextTime_chrBanks (d : BitVec 32) : (s.setNextTime d).chrBanks = s.chrBanks := rfl
@[simp] theorem State.setNextTime_command (d : BitVec 32) : (s.setNextTime d).command = s.command := rfl
@[simp] theorem State.setNextTime_irqEnabled (d : BitVec 32) : (s.setNextTime d).irqEnabled = s.irqEnabled := rfl
@[simp] theorem State.setNextTime_irqCount (d : BitVec 32) : (s.setNextTime d).irqCount = s.irqCount := rfl
@[simp] theorem State.setNextTime_wramControl (d : BitVec 32) : (s.setNextTime d).wramControl = s.wramControl := rfl
@[simp] theorem State.setNextTime_irqPending (d : BitVec 32) : (s.setNextTime d).irqPending = s.irqPending := rfl
@[simp] theorem State.setNextTime_nextTime (d : BitVec 32) : (s.setNextTime d).nextTime = d := rfl
@[simp] theorem State.setNextTime_tLast (d : BitVec 32) : (s.setNextTime d).tLast = s.tLast := rfl
@[simp] theorem State.setNextTime_resetDone (d : BitVec 32) : (s.setNextTime d).resetDone = s.resetDone := rfl
@[simp] theorem State.setNextTime_trace (d : BitVec 32) : (s.setNextTime d).trace = s.trace := rfl
@[simp] theorem State.setNextTime_answer (d : BitVec 32) : (s.setNextTime d).answer = s.answer := rfl
@[simp] theorem State.setNextTime_inbox (d : BitVec 32) : (s.setNextTime d).inbox = s.inbox := rfl
@[simp] theorem State.setNextTime_cfg (d : BitVec 32) : (s.setNextTime d).cfg = s.cfg := rfl

/-! ### `setTLast` -/

@[simp] theorem State.setTLast_mirroring (t : Int) : (s.setTLast t).mirroring = s.mirroring := rfl
@[simp] theorem State.setTLast_prgBanks (t : Int) : (s.setTLast t).prgBanks = s.prgBanks := rfl
@[simp] theorem State.setTLast_chrBanks (t : Int) : (s.setTLast t).chrBanks = s.chrBanks := rfl
@[simp] theorem State.setTLast_command (t : Int) : (s.setTLast t).command = s.command := rfl
@[simp] theorem State.setTLast_irqEnabled (t : Int) : (s.setTLast t).irqEnabled = s.irqEnabled := rfl
@[simp] theorem State.setTLast_irqCount (t : Int) : (s.setTLast t).irqCount = s.irqCount := rfl
@[simp] theorem State.setTLast_wramControl (t : Int) : (s.setTLast t).wramControl = s.wramControl := rfl
@[simp] theorem State.setTLast_irqPending (t : Int) : (s.setTLast t).irqPending = s.irqPending := rfl
@[simp] theorem State.setTLast_nextTime (t : Int) : (s.setTLast t).nextTime = s.nextTime := rfl
@[simp] theorem State.setTLast_tLast (t : Int) : (s.setTLast t).tLast = t := rfl
@[simp] theorem State.setTLast_resetDone (t : Int) : (s.setTLast t).resetDone = s.resetDone := rfl
@[simp] theorem State.setTLast_trace (t : Int) : (s.setTLast t).trace = s.trace := rfl
@[simp] theorem State.setTLast_answer (t : Int) : (s.setTLast t).answer = s.answer := rfl
@[simp] theorem State.setTLast_inbox (t : Int) : (s.setTLast t).inbox = s.inbox := rfl
@[simp] theorem State.setTLast_cfg (t : Int) : (s.setTLast t).cfg = s.cfg := rfl

/-! ### `emit` -/

@[simp] theorem State.emit_mirroring (c : Call) : (s.emit c).mirroring = s.mirroring := rfl
@[simp] theorem State.emit_prgBanks (c : Call) : (s.emit c).prgBanks = s.prgBanks := rfl
@[simp] theorem State.emit_chrBanks (c : Call) : (s.emit c).chrBanks = s.chrBanks := rfl
@[simp] theorem State.emit_command (c : Call) : (s.emit c).command = s.command := rfl
@[simp] theorem State.emit_irqEnabled (c : Call) : (s.emit c).irqEnabled = s.irqEnabled := rfl
@[simp] theorem State.emit_irqCount (c : Call) : (s.emit c).irqCount = s.irqCount := rfl
@[simp] theorem State.emit_wramControl (c : Call) : (s.emit c).wramControl = s.wramControl := rfl
@[simp] theorem State.emit_irqPending (c : Call) : (s.emit c).irqPending = s.irqPending := rfl
@[simp] theorem State.emit_nextTime (c : Call) : (s.emit c).nextTime = s.nextTime := rfl
@[simp] theorem State.emit_tLast (c : Call) : (s.emit c).tLast = s.tLast := rfl
@[simp] theorem State.emit_resetDone (c : Call) : (s.emit c).resetDone = s.resetDone := rfl
@[simp] theorem State.emit_trace (c : Call) : (s.emit c).trace = s.trace ++ [c] := rfl
@[simp] theorem State.emit_answer (c : Call) : (s.emit c).answer = s.answer := rfl
@[simp] theorem State.emit_inbox (c : Call) : (s.emit c).inbox = s.inbox := rfl
@[simp] theorem State.emit_cfg (c : Call) : (s.emit c).cfg = s.cfg := rfl

/-! ### `setAnswer` -/

@[simp] theorem State.setAnswer_mirroring (a : Answer) : (s.setAnswer a).mirroring = s.mirroring := rfl
@[simp] theorem State.setAnswer_prgBanks (a : Answer) : (s.setAnswer a).prgBanks = s.prgBanks := rfl
@[simp] theorem State.setAnswer_chrBanks (a : Answer) : (s.setAnswer a).chrBanks = s.chrBanks := rfl
@[simp] theorem State.setAnswer_command (a : Answer) : (s.setAnswer a).command = s.command := rfl
@[simp] theorem State.setAnswer_irqEnabled (a : Answer) : (s.setAnswer a).irqEnabled = s.irqEnabled := rfl
@[simp] theorem State.setAnswer_irqCount (a : Answer) : (s.setAnswer a).irqCount = s.irqCount := rfl
@[simp] theorem State.setAnswer_wramControl (a : Answer) : (s.setAnswer a).wramControl = s.wramControl := rfl
@[simp] theorem State.setAnswer_irqPending (a : Answer) : (s.setAnswer a).irqPending = s.irqPending := rfl
@[simp] theorem State.setAnswer_nextTime (a : Answer) : (s.setAnswer a).nextTime = s.nextTime := rfl
@[simp] theorem State.setAnswer_tLast (a : Answer) : (s.setAnswer a).tLast = s.tLast := rfl
@[simp] theorem State.setAnswer_resetDone (a : Answer) : (s.setAnswer a).resetDone = s.resetDone := rfl
@[simp] theorem State.setAnswer_trace (a : Answer) : (s.setAnswer a).trace = s.trace := rfl
@[simp] theorem State.setAnswer_answer (a : Answer) : (s.setAnswer a).answer = a := rfl
@[simp] theorem State.setAnswer_inbox (a : Answer) : (s.setAnswer a).inbox = s.inbox := rfl
@[simp] theorem State.setAnswer_cfg (a : Answer) : (s.setAnswer a).cfg = s.cfg := rfl

/-! ### `expire` -/

@[simp] theorem State.expire_mirroring : s.expire.mirroring = s.mirroring := rfl
@[simp] theorem State.expire_prgBanks : s.expire.prgBanks = s.prgBanks := rfl
@[simp] theorem State.expire_chrBanks : s.expire.chrBanks = s.chrBanks := rfl
@[simp] theorem State.expire_command : s.expire.command = s.command := rfl
@[simp] theorem State.expire_irqEnabled : s.expire.irqEnabled = false := rfl
@[simp] theorem State.expire_irqCount : s.expire.irqCount = countMax := rfl
@[simp] theorem State.expire_wramControl : s.expire.wramControl = s.wramControl := rfl
@[simp] theorem State.expire_irqPending : s.expire.irqPending = true := rfl
@[simp] theorem State.expire_nextTime : s.expire.nextTime = s.nextTime := rfl
@[simp] theorem State.expire_tLast : s.expire.tLast = s.tLast := rfl
@[simp] theorem State.expire_resetDone : s.expire.resetDone = s.resetDone := rfl
@[simp] theorem State.expire_trace : s.expire.trace = s.trace := rfl
@[simp] theorem State.expire_answer : s.expire.answer = s.answer := rfl
@[simp] theorem State.expire_inbox : s.expire.inbox = s.inbox := rfl
@[simp] theorem State.expire_cfg : s.expire.cfg = s.cfg := rfl

/-! ### `pinTop` -/

@[simp] theorem State.pinTop_mirroring : s.pinTop.mirroring = s.mirroring := rfl
@[simp] theorem State.pinTop_prgBanks : s.pinTop.prgBanks = s.prgBanks := rfl
@[simp] theorem State.pinTop_chrBanks : s.pinTop.chrBanks = s.chrBanks := rfl
@[simp] theorem State.pinTop_command : s.pinTop.command = s.command := rfl
@[simp] theorem State.pinTop_irqEnabled : s.pinTop.irqEnabled = s.irqEnabled := rfl
@[simp] theorem State.pinTop_irqCount : s.pinTop.irqCount = s.irqCount := rfl
@[simp] theorem State.pinTop_wramControl : s.pinTop.wramControl = s.wramControl := rfl
@[simp] theorem State.pinTop_irqPending : s.pinTop.irqPending = s.irqPending := rfl
@[simp] theorem State.pinTop_nextTime : s.pinTop.nextTime = s.nextTime := rfl
@[simp] theorem State.pinTop_tLast : s.pinTop.tLast = s.tLast := rfl
@[simp] theorem State.pinTop_resetDone : s.pinTop.resetDone = s.resetDone := rfl
@[simp] theorem State.pinTop_trace : s.pinTop.trace = s.trace ++ [.setProgramBank (topBase s.cfg) .kib8 .last] := rfl
@[simp] theorem State.pinTop_answer : s.pinTop.answer = s.answer := rfl
@[simp] theorem State.pinTop_inbox : s.pinTop.inbox = s.inbox := rfl
@[simp] theorem State.pinTop_cfg : s.pinTop.cfg = s.cfg := rfl

/-! ### `resetRegisters` -/

@[simp] theorem State.resetRegisters_mirroring : s.resetRegisters.mirroring = 0 := rfl
@[simp] theorem State.resetRegisters_prgBanks : s.resetRegisters.prgBanks = Vector.replicate 3 0 := rfl
@[simp] theorem State.resetRegisters_chrBanks : s.resetRegisters.chrBanks = Vector.replicate 8 0 := rfl
@[simp] theorem State.resetRegisters_command : s.resetRegisters.command = 0 := rfl
@[simp] theorem State.resetRegisters_irqEnabled : s.resetRegisters.irqEnabled = false := rfl
@[simp] theorem State.resetRegisters_irqCount : s.resetRegisters.irqCount = countMax := rfl
@[simp] theorem State.resetRegisters_wramControl : s.resetRegisters.wramControl = wramReset := rfl
@[simp] theorem State.resetRegisters_irqPending : s.resetRegisters.irqPending = false := rfl
@[simp] theorem State.resetRegisters_nextTime : s.resetRegisters.nextTime = 0 := rfl
@[simp] theorem State.resetRegisters_tLast : s.resetRegisters.tLast = 0 := rfl
@[simp] theorem State.resetRegisters_resetDone : s.resetRegisters.resetDone = true := rfl
@[simp] theorem State.resetRegisters_trace : s.resetRegisters.trace = s.trace := rfl
@[simp] theorem State.resetRegisters_answer : s.resetRegisters.answer = .nothing := rfl
@[simp] theorem State.resetRegisters_inbox : s.resetRegisters.inbox = s.inbox := rfl
@[simp] theorem State.resetRegisters_cfg : s.resetRegisters.cfg = s.cfg := rfl

/-! ### `loadBlock` -/

@[simp] theorem State.loadBlock_mirroring (b : List Byte) :
    (s.loadBlock b).mirroring = (byteAt b 0).extractLsb' 0 2 := rfl
@[simp] theorem State.loadBlock_prgBanks (b : List Byte) :
    (s.loadBlock b).prgBanks = #v[byteAt b 1, byteAt b 2, byteAt b 3] := rfl
@[simp] theorem State.loadBlock_chrBanks (b : List Byte) :
    (s.loadBlock b).chrBanks = #v[byteAt b 4, byteAt b 5, byteAt b 6, byteAt b 7, byteAt b 8, byteAt b 9, byteAt b 10, byteAt b 11] := rfl
@[simp] theorem State.loadBlock_command (b : List Byte) :
    (s.loadBlock b).command = (byteAt b 12).extractLsb' 0 4 := rfl
@[simp] theorem State.loadBlock_irqEnabled (b : List Byte) :
    (s.loadBlock b).irqEnabled = (byteAt b 13)[0] := rfl
@[simp] theorem State.loadBlock_irqCount (b : List Byte) : (s.loadBlock b).irqCount = getLe16 b 15 := rfl
@[simp] theorem State.loadBlock_wramControl (b : List Byte) : (s.loadBlock b).wramControl = byteAt b 14 := rfl
@[simp] theorem State.loadBlock_irqPending (b : List Byte) : (s.loadBlock b).irqPending = s.irqPending := rfl
@[simp] theorem State.loadBlock_nextTime (b : List Byte) : (s.loadBlock b).nextTime = getLe32 b 17 := rfl
@[simp] theorem State.loadBlock_tLast (b : List Byte) : (s.loadBlock b).tLast = s.tLast := rfl
@[simp] theorem State.loadBlock_resetDone (b : List Byte) : (s.loadBlock b).resetDone = s.resetDone := rfl
@[simp] theorem State.loadBlock_trace (b : List Byte) : (s.loadBlock b).trace = s.trace := rfl
@[simp] theorem State.loadBlock_answer (b : List Byte) : (s.loadBlock b).answer = s.answer := rfl
@[simp] theorem State.loadBlock_inbox (b : List Byte) : (s.loadBlock b).inbox = s.inbox := rfl
@[simp] theorem State.loadBlock_cfg (b : List Byte) : (s.loadBlock b).cfg = s.cfg := rfl

end Sys2Proof.Machine
end

