-- ==== Sys2Proof/Laws/Ops.lean ====
section
/-! SUPPORT. One lemma per shared operation that says everything it can do; the provers cite these instead of
unfolding. -/

namespace Sys2Proof.Machine

/-! ### The caller's obligations -/

theorem afterReset_next {s s' : State} {k : State → Result} :
    afterReset s k = .next s' ↔ s.resetDone = true ∧ k (s.setAnswer .nothing) = .next s' := by
  unfold afterReset; split <;> simp_all

theorem afterReset_fault {s : State} {k : State → Result} {r : Fault} :
    afterReset s k = .fault r ↔ s.resetDone = true ∧ k (s.setAnswer .nothing) = .fault r := by
  unfold afterReset; split <;> simp_all

theorem inOrder_next {t : Int} {s s' : State} {k : State → Result} :
    inOrder t s k = .next s' ↔ s.tLast ≤ t ∧ k (s.setTLast t) = .next s' := by
  unfold inOrder; split <;> simp_all

theorem inOrder_fault {t : Int} {s : State} {k : State → Result} {r : Fault} :
    inOrder t s k = .fault r ↔ s.tLast ≤ t ∧ k (s.setTLast t) = .fault r := by
  unfold inOrder; split <;> simp_all

/-- An operation that carries a time answers a next state exactly under the two obligations, and runs on the state
with the answer cleared and `tLast` moved. -/
theorem timed_next {t : Int} {s s' : State} {k : State → Result} :
    timed t s k = .next s' ↔
      s.resetDone = true ∧ s.tLast ≤ t ∧ k ((s.setAnswer .nothing).setTLast t) = .next s' := by
  simp [timed, afterReset_next, inOrder_next]

theorem timed_fault {t : Int} {s : State} {k : State → Result} {r : Fault} :
    timed t s k = .fault r ↔
      s.resetDone = true ∧ s.tLast ≤ t ∧ k ((s.setAnswer .nothing).setTLast t) = .fault r := by
  simp [timed, afterReset_fault, inOrder_fault]

/-- Under the obligations, a timed operation is its body. -/
theorem timed_accepts {t : Int} {s : State} {k : State → Result} (h : s.resetDone = true) (ht : s.tLast ≤ t) :
    timed t s k = k ((s.setAnswer .nothing).setTLast t) := by
  simp [timed, afterReset, inOrder, h, ht]

theorem afterReset_accepts {s : State} {k : State → Result} (h : s.resetDone = true) :
    afterReset s k = k (s.setAnswer .nothing) := by
  simp [afterReset, h]

/-! ### The deadline -/

theorem fitsDeadline_iff {d : Int} : fitsDeadline d = true ↔ -2147483648 ≤ d ∧ d ≤ 2147483647 := by
  simp [fitsDeadline]

theorem storeDeadline_next {d : Int} {s s' : State} :
    storeDeadline d s = .next s' ↔ fitsDeadline d = true ∧ s' = s.setNextTime (BitVec.ofInt 32 d) := by
  unfold storeDeadline
  split
  · rename_i h
    simp only [Host.Outcome.next.injEq, h, true_and]
    exact eq_comm
  · simp_all

theorem storeDeadline_not_fault {d : Int} {s : State} {r : Fault} : storeDeadline d s ≠ .fault r := by
  unfold storeDeadline; split <;> simp

/-- A deadline that fits is read back as the integer stored. -/
theorem toInt_ofInt_of_fits {d : Int} (h : fitsDeadline d = true) : (BitVec.ofInt 32 d).toInt = d := by
  rw [fitsDeadline_iff] at h
  rw [BitVec.toInt_ofInt, Int.bmod_eq_of_le (by omega) (by omega)]

/-! ### Calls of the registers -/

@[simp] theorem applyReg_trace (c : Fin 13) (s : State) : (applyReg c s).trace = s.trace ++ [s.regCall c] := rfl

/-- A call depends on the registers and the parameters alone, so emitting changes none of them. -/
@[simp] theorem regCall_emit (s : State) (c : Fin 13) (x : Call) : (s.emit x).regCall c = s.regCall c := rfl

/-- Emitting one call after another is emitting the list. -/
theorem foldl_applyReg (l : List (Fin 13)) (s : State) :
    l.foldl (fun s c => applyReg c s) s = { s with trace := s.trace ++ l.map s.regCall } := by
  induction l generalizing s with
  | nil => simp
  | cons c l ih =>
    rw [List.foldl_cons, ih]
    simp [applyReg, State.emit, List.append_assoc, State.regCall]

/-- `applyMapping` appends its thirteen calls and changes nothing else. -/
theorem applyMapping_eq (s : State) :
    applyMapping s = { s with trace := s.trace ++ mappingOrder.map s.regCall } := foldl_applyReg _ s

/-! ### The persisted state block -/

/-- The block is 21 bytes (R14, R183). -/
theorem block_length (s : State) : s.block.length = stateBytes := by
  simp [State.block, le16, le32, stateBytes]

end Sys2Proof.Machine
end

