-- ==== Sys2Proof/Laws/Bus.lean ====
section
/-! SUPPORT. The partial maps keep their canonical form and read back what was written; what a call does to the view. -/

namespace Sys2Proof.Machine

theorem BankMap.wf_cons {a : Nat} {x : BankIdx} {m : BankMap} :
    BankMap.wf ((a, x) :: m) = true ↔ BankMap.wf m = true ∧ ∀ p ∈ m.head?, a < p.1 := by
  cases m with
  | nil => simp [BankMap.wf]
  | cons p m => simp [BankMap.wf]; tauto

theorem BankMap.head_set {a k : Nat} {v : BankIdx} {m : BankMap} (hk : a < k) (h : ∀ p ∈ m.head?, a < p.1) :
    ∀ p ∈ (BankMap.set k v m).head?, a < p.1 := by
  cases m with
  | nil => simpa [BankMap.set] using hk
  | cons q m =>
    obtain ⟨b, y⟩ := q
    simp only [BankMap.set]
    split
    · simpa using hk
    · split
      · simpa using hk
      · simpa using h

/-- Writing keeps the canonical form. -/
theorem BankMap.set_wf (k : Nat) (v : BankIdx) (m : BankMap) (h : m.wf = true) : (BankMap.set k v m).wf = true := by
  induction m with
  | nil => rfl
  | cons p m ih =>
    obtain ⟨a, x⟩ := p
    rw [BankMap.wf_cons] at h
    simp only [BankMap.set]
    split
    · rw [BankMap.wf_cons, BankMap.wf_cons]; exact ⟨h, by simpa⟩
    · split
      · subst_vars; rw [BankMap.wf_cons]; exact h
      · rw [BankMap.wf_cons]; exact ⟨ih h.1, BankMap.head_set (by omega) h.2⟩

/-- Reading the key just written. -/
@[simp] theorem BankMap.get_set_self (k : Nat) (v : BankIdx) (m : BankMap) :
    BankMap.get k (BankMap.set k v m) = some v := by
  induction m with
  | nil => simp [BankMap.set, BankMap.get]
  | cons p m ih =>
    obtain ⟨a, x⟩ := p
    simp only [BankMap.set]
    split
    · simp [BankMap.get]
    · split
      · simp [BankMap.get]
      · simp [BankMap.get, ih]; omega

/-- Writing leaves every other key alone. -/
theorem BankMap.get_set_of_ne {k j : Nat} (v : BankIdx) (m : BankMap) (h : j ≠ k) :
    BankMap.get j (BankMap.set k v m) = BankMap.get j m := by
  induction m with
  | nil => simp [BankMap.set, BankMap.get]; omega
  | cons p m ih =>
    obtain ⟨a, x⟩ := p
    simp only [BankMap.set]
    split
    · simp [BankMap.get]; omega
    · split
      · subst_vars
        simp only [BankMap.get]
        rw [if_neg (by omega), if_neg (by omega)]
      · simp only [BankMap.get, ih]

/-- Writing the value an entry holds changes nothing. -/
theorem BankMap.set_eq_self {k : Nat} {v : BankIdx} {m : BankMap} (hw : m.wf = true)
    (h : BankMap.get k m = some v) : BankMap.set k v m = m := by
  induction m with
  | nil => simp [BankMap.get] at h
  | cons p m ih =>
    obtain ⟨a, x⟩ := p
    rw [BankMap.wf_cons] at hw
    simp only [BankMap.get] at h
    simp only [BankMap.set]
    split at h
    · subst_vars; simp_all
    · have hak : a < k := by
        clear ih
        by_contra hn
        have hlt : ∀ (m : BankMap), m.wf = true → (∀ p ∈ m.head?, a < p.1) → BankMap.get k m = none := by
          intro m
          induction m with
          | nil => intros; rfl
          | cons q m ih =>
            obtain ⟨b, y⟩ := q
            intro hm hh
            rw [BankMap.wf_cons] at hm
            simp at hh
            simp only [BankMap.get]
            rw [if_neg (by omega)]
            exact ih hm.1 (fun p hp => by have := hm.2 p hp; omega)
        rw [hlt m hw.1 hw.2] at h
        simp at h
      rw [if_neg (by omega), if_neg (by omega), ih hw.1 h]

/-- The two maps of a view are in canonical form. -/
def BusView.wf (v : BusView) : Bool := v.prgWin.wf && v.chrWin.wf

/-- A call keeps the canonical form. -/
theorem BusView.apply_wf (v : BusView) (c : Call) (h : v.wf = true) : (v.apply c).wf = true := by
  simp only [BusView.wf, Bool.and_eq_true] at h ⊢
  cases c <;> simp [BusView.apply, BankMap.set_wf, h]

theorem BusView.run_wf (v : BusView) (l : List Call) (h : v.wf = true) : (v.run l).wf = true := by
  induction l generalizing v with
  | nil => exact h
  | cons c l ih => exact ih _ (BusView.apply_wf v c h)

theorem State.bus_wf (s : State) : s.bus.wf = true := BusView.run_wf _ _ rfl

@[simp] theorem BusView.run_append (v : BusView) (l m : List Call) : v.run (l ++ m) = (v.run l).run m := by
  simp [BusView.run]

/-- Emitting a call applies it to the bus. -/
@[simp] theorem State.bus_emit (s : State) (c : Call) : (s.emit c).bus = s.bus.apply c := by
  simp [State.bus, BusView.run]

/-! ### The number of a bank -/

/-- In range the bus's own function is not asked. -/
theorem bankNumber_of_lt (reduce : Nat → Nat → Nat) {banks : Nat} {n : Byte} (h : n.toNat < banks) :
    bankNumber reduce banks (.idx n) = n.toNat := if_pos h

/-- Past the end it alone decides. -/
theorem bankNumber_of_ge (reduce : Nat → Nat → Nat) {banks : Nat} {n : Byte} (h : banks ≤ n.toNat) :
    bankNumber reduce banks (.idx n) = reduce n.toNat banks := if_neg (Nat.not_lt.2 h)

@[simp] theorem bankNumber_last (reduce : Nat → Nat → Nat) (banks : Nat) :
    bankNumber reduce banks .last = banks - 1 := rfl

end Sys2Proof.Machine
end

