-- ==== Sys2Proof/Laws/Codec.lean ====
section
/-! SUPPORT. Bytes joined and taken apart: what the countdown writes, the endian codec and the persisted state block rest
on. -/

namespace Sys2Proof.Machine

/-- Taking the bytes of a 16-bit value that was joined. -/
theorem bytes_join16 (a b : Byte) : (a ++ b).extractLsb' 0 8 = b ∧ (a ++ b).extractLsb' 8 8 = a := by
  have := a.isLt; have := b.isLt
  constructor <;>
  · apply BitVec.eq_of_toNat_eq
    simp only [BitVec.extractLsb'_toNat, BitVec.toNat_append]
    rw [← Nat.shiftLeft_add_eq_or_of_lt b.isLt]
    simp only [Nat.shiftLeft_eq, Nat.shiftRight_eq_div_pow]
    omega

/-- Joining the bytes of a 16-bit value. -/
theorem join_bytes16 (v : BitVec 16) : v.extractLsb' 8 8 ++ v.extractLsb' 0 8 = v := by
  apply BitVec.eq_of_toNat_eq
  simp only [BitVec.toNat_append]
  rw [← Nat.shiftLeft_add_eq_or_of_lt (BitVec.isLt _)]
  simp only [BitVec.extractLsb'_toNat, Nat.shiftLeft_eq, Nat.shiftRight_eq_div_pow]
  have := v.isLt
  omega

/-- Taking the bytes of a 32-bit value that was joined. -/
theorem bytes_join32 (a b c d : Byte) :
    (a ++ b ++ c ++ d).extractLsb' 0 8 = d ∧ (a ++ b ++ c ++ d).extractLsb' 8 8 = c ∧
      (a ++ b ++ c ++ d).extractLsb' 16 8 = b ∧ (a ++ b ++ c ++ d).extractLsb' 24 8 = a := by
  have := a.isLt; have := b.isLt; have := c.isLt; have := d.isLt
  refine ⟨?_, ?_, ?_, ?_⟩ <;>
  · apply BitVec.eq_of_toNat_eq
    simp only [BitVec.extractLsb'_toNat, BitVec.toNat_append]
    rw [← Nat.shiftLeft_add_eq_or_of_lt b.isLt, ← Nat.shiftLeft_add_eq_or_of_lt c.isLt,
      ← Nat.shiftLeft_add_eq_or_of_lt d.isLt]
    simp only [Nat.shiftLeft_eq, Nat.shiftRight_eq_div_pow]
    omega

/-- Joining the bytes of a 32-bit value. -/
theorem join_bytes32 (v : BitVec 32) :
    v.extractLsb' 24 8 ++ v.extractLsb' 16 8 ++ v.extractLsb' 8 8 ++ v.extractLsb' 0 8 = v := by
  apply BitVec.eq_of_toNat_eq
  simp only [BitVec.toNat_append]
  rw [← Nat.shiftLeft_add_eq_or_of_lt (BitVec.isLt _), ← Nat.shiftLeft_add_eq_or_of_lt (BitVec.isLt _),
    ← Nat.shiftLeft_add_eq_or_of_lt (BitVec.isLt _)]
  simp only [BitVec.extractLsb'_toNat, Nat.shiftLeft_eq, Nat.shiftRight_eq_div_pow]
  have := v.isLt
  omega

/-- Writing the byte a countdown already has changes nothing. -/
theorem withLow_self (c : BitVec 16) : withLow c (c.extractLsb' 0 8) = c := join_bytes16 c

theorem withHigh_self (c : BitVec 16) : withHigh c (c.extractLsb' 8 8) = c := join_bytes16 c

/-- Reading a byte sequence after one byte is stored. -/
theorem byteAt_set (b : List Byte) (o : Nat) (x : Byte) (j : Nat) :
    byteAt (b.set o x) j = if o = j ∧ j < b.length then x else byteAt b j := by
  simp only [byteAt, List.getD_eq_getElem?_getD, List.getElem?_set]
  by_cases h : o = j
  · subst h
    by_cases hl : o < b.length
    · simp [hl]
    · simp [hl]
  · simp [h]

end Sys2Proof.Machine
end

