-- ==== Sys2Proof/Laws/Decode.lean ====
section
/-! SUPPORT. The key and its fields, the regions and their first addresses, and what the decoder answers. -/

namespace Sys2Proof

@[simp] theorem Region.ofCode_code (r : Region) : Region.ofCode r.code = r := by cases r <;> rfl

@[simp] theorem keyRegion_makeKey (r : Region) (l : Latch) (v : Byte) : keyRegion (makeKey r l v) = r := by
  have : (makeKey r l v).extractLsb' 12 2 = r.code := by
    apply BitVec.eq_of_toNat_eq
    simp only [makeKey, BitVec.extractLsb'_toNat, BitVec.toNat_append]
    have := v.isLt; have := l.isLt; have := r.code.isLt
    rw [← Nat.shiftLeft_add_eq_or_of_lt v.isLt, ← Nat.shiftLeft_add_eq_or_of_lt l.isLt]
    simp only [Nat.shiftLeft_eq, Nat.shiftRight_eq_div_pow]
    omega
  simp [keyRegion, this]

@[simp] theorem keyLatch_makeKey (r : Region) (l : Latch) (v : Byte) : keyLatch (makeKey r l v) = l := by
  apply BitVec.eq_of_toNat_eq
  simp only [keyLatch, makeKey, BitVec.extractLsb'_toNat, BitVec.toNat_append]
  have := v.isLt; have := l.isLt; have := r.code.isLt
  rw [← Nat.shiftLeft_add_eq_or_of_lt v.isLt, ← Nat.shiftLeft_add_eq_or_of_lt l.isLt]
  simp only [Nat.shiftLeft_eq, Nat.shiftRight_eq_div_pow]
  omega

@[simp] theorem keyValue_makeKey (r : Region) (l : Latch) (v : Byte) : keyValue (makeKey r l v) = v := by
  apply BitVec.eq_of_toNat_eq
  simp only [keyValue, makeKey, BitVec.extractLsb'_toNat, BitVec.toNat_append]
  have := v.isLt; have := l.isLt; have := r.code.isLt
  rw [← Nat.shiftLeft_add_eq_or_of_lt v.isLt, ← Nat.shiftLeft_add_eq_or_of_lt l.isLt]
  simp only [Nat.shiftLeft_eq, Nat.shiftRight_eq_div_pow]
  omega

/-- The mask of a data row keeps the region and the latch. -/
theorem makeKey_mask_data (l : Latch) (v : Byte) : makeKey .data l v &&& 0x3F00 = makeKey .data l 0 := by
  apply BitVec.eq_of_getLsbD_eq
  intro i hi
  simp only [makeKey, BitVec.getLsbD_and, BitVec.getLsbD_append, Region.code]
  interval_cases i <;> simp

/-- The mask of SEL, SND and OUT keeps the region. -/
theorem makeKey_mask_region (r : Region) (l : Latch) (v : Byte) : makeKey r l v &&& 0x3000 = makeKey r 0 0 := by
  apply BitVec.eq_of_getLsbD_eq
  intro i hi
  simp only [makeKey, BitVec.getLsbD_and, BitVec.getLsbD_append]
  interval_cases i <;> simp

/-- A write decodes by its region and the latch. -/
@[simp] theorem decode_write (c : Config) (l : Latch) (t : Int) (a : Addr) (v : Byte) :
    decode c l (.write t a v) = .ok (decodeWrite (region c a) l t v) := by
  simp [decode, decodeKey]

/-- What well-formed parameters say, as facts for `omega`. -/
theorem Config.wf_iff (c : Config) :
    c.wf = true ↔
      0 < c.winBase ∧ 0 < c.half ∧ c.winBase + 2 * c.half ≤ c.addrTop ∧ c.addrTop ≤ 0xFFFF ∧
      c.prgBase % 0x2000 = 0 ∧ c.prgBase + 0x8000 ≤ 0x10000 ∧ c.wramBase % 0x2000 = 0 ∧
      c.wramBase + 0x2000 ≤ 0x10000 ∧ c.wramBase ≠ c.prgBase ∧ c.wramBase ≠ c.prgBase + 0x2000 ∧
      c.wramBase ≠ c.prgBase + 0x4000 ∧ c.wramBase ≠ c.prgBase + 0x6000 := by
  simp only [Config.wf, Bool.and_eq_true, decide_eq_true_eq]
  simp only [Machine.topBase, Machine.prgWindow, Machine.prgGran]
  omega

/-- The first address of a region lies in it. -/
theorem region_regionFirst {c : Config} (h : c.wf = true) (r : Region) : region c (regionFirst c r) = r := by
  rw [Config.wf_iff] at h
  cases r <;> simp only [region, regionFirst, BitVec.toNat_ofNat] <;> grind

end Sys2Proof
end

