-- ==== Sys2Proof/Laws/Flags.lean ====
section
/-! SUPPORT. What advancing, arming and rebasing the timer can do. -/

namespace Sys2Proof.Machine

/-- A disabled timer does not move. -/
theorem advance_disabled {e : Int} {s : State} (h : s.irqEnabled = false) : advance e s = s := by
  simp [advance, h]

/-- A deadline reached expires. -/
theorem advance_expired {e : Int} {s : State} (h : s.irqEnabled = true) (hd : s.deadline ≤ e) :
    advance e s = s.expire := by
  simp [advance, h, hd]

/-- A deadline not reached leaves the remaining cycles in the countdown. -/
theorem advance_running {e : Int} {s : State} (h : s.irqEnabled = true) (hd : e < s.deadline) :
    advance e s = s.setCount (BitVec.ofInt 16 (s.deadline - e)) := by
  simp [advance, h, Int.not_le.mpr hd]

/-- Everything that advancing can do. -/
theorem advance_cases (e : Int) (s : State) :
    (s.irqEnabled = false ∧ advance e s = s) ∨
    (s.irqEnabled = true ∧ s.deadline ≤ e ∧ advance e s = s.expire) ∨
    (s.irqEnabled = true ∧ e < s.deadline ∧ advance e s = s.setCount (BitVec.ofInt 16 (s.deadline - e))) := by
  by_cases h : s.irqEnabled = true
  · by_cases hd : s.deadline ≤ e
    · exact .inr (.inl ⟨h, hd, advance_expired h hd⟩)
    · exact .inr (.inr ⟨h, by omega, advance_running h (by omega)⟩)
  · exact .inl ⟨by simpa using h, advance_disabled (by simpa using h)⟩

/-- Advancing touches the two flags and the countdown and nothing else. -/
theorem advance_eq (e : Int) (s : State) :
    advance e s =
      { s with
        irqEnabled := (advance e s).irqEnabled, irqPending := (advance e s).irqPending,
        irqCount := (advance e s).irqCount } := by
  obtain ⟨-, h⟩ | ⟨-, -, h⟩ | ⟨-, -, h⟩ := advance_cases e s <;> rw [h] <;> rfl

@[simp] theorem advance_mirroring (e : Int) (s : State) : (advance e s).mirroring = s.mirroring := by rw [advance_eq]
@[simp] theorem advance_prgBanks (e : Int) (s : State) : (advance e s).prgBanks = s.prgBanks := by rw [advance_eq]
@[simp] theorem advance_chrBanks (e : Int) (s : State) : (advance e s).chrBanks = s.chrBanks := by rw [advance_eq]
@[simp] theorem advance_command (e : Int) (s : State) : (advance e s).command = s.command := by rw [advance_eq]
@[simp] theorem advance_wramControl (e : Int) (s : State) : (advance e s).wramControl = s.wramControl := by
  rw [advance_eq]
@[simp] theorem advance_nextTime (e : Int) (s : State) : (advance e s).nextTime = s.nextTime := by rw [advance_eq]
@[simp] theorem advance_tLast (e : Int) (s : State) : (advance e s).tLast = s.tLast := by rw [advance_eq]
@[simp] theorem advance_resetDone (e : Int) (s : State) : (advance e s).resetDone = s.resetDone := by rw [advance_eq]
@[simp] theorem advance_trace (e : Int) (s : State) : (advance e s).trace = s.trace := by rw [advance_eq]
@[simp] theorem advance_answer (e : Int) (s : State) : (advance e s).answer = s.answer := by rw [advance_eq]
@[simp] theorem advance_inbox (e : Int) (s : State) : (advance e s).inbox = s.inbox := by rw [advance_eq]
@[simp] theorem advance_cfg (e : Int) (s : State) : (advance e s).cfg = s.cfg := by rw [advance_eq]
@[simp] theorem advance_deadline (e : Int) (s : State) : (advance e s).deadline = s.deadline := by
  simp [State.deadline]

/-- A timer still enabled after an advance has its deadline in the future; this is why the assertion of `endFrame`
holds (R160). -/
theorem lt_deadline_of_advance_enabled {e : Int} {s : State} (h : (advance e s).irqEnabled = true) :
    e < s.deadline := by
  obtain ⟨h0, h1⟩ | ⟨-, -, h1⟩ | ⟨-, h1, -⟩ := advance_cases e s
  · simp [h1, h0] at h
  · simp [h1] at h
  · exact h1

/-- The countdown left by an advance that does not expire, when it fits 16 bits. -/
theorem advance_running_count {e : Int} {s : State} (h : s.irqEnabled = true) (hd : e < s.deadline)
    (hb : s.deadline - e ≤ 0xFFFF) : ((advance e s).irqCount.toNat : Int) = s.deadline - e := by
  rw [advance_running h hd, State.setCount_irqCount, BitVec.toNat_ofInt]
  omega

theorem arm_next {t : Int} {s s' : State} :
    arm t s = .next s' ↔
      fitsDeadline (t + (s.irqCount.toNat : Int)) = true ∧
        s' = s.setNextTime (BitVec.ofInt 32 (t + (s.irqCount.toNat : Int))) := storeDeadline_next

theorem rearmIfEnabled_next {t : Int} {s s' : State} :
    rearmIfEnabled t s = .next s' ↔
      (s.irqEnabled = true ∧ arm t s = .next s') ∨ (s.irqEnabled = false ∧ s' = s) := by
  unfold rearmIfEnabled
  split
  · simp_all
  · rename_i h
    simp [h, eq_comm]

theorem rebase_next {e : Int} {s s' : State} :
    rebase e s = .next s' ↔
      (s.irqEnabled = true ∧ 0 ≤ s.deadline - e ∧ storeDeadline (s.deadline - e) s = .next s') ∨
        (s.irqEnabled = false ∧ s' = s) := by
  unfold rebase raiseContractFailure
  split
  · split
    · simp_all
    · rename_i h hd
      simp only [h, Int.not_lt.mp hd, true_and, Bool.true_eq_false, false_and, or_false]
  · rename_i h
    simp [h, eq_comm]

/-- The one fault, and when it is raised (R200). -/
theorem rebase_fault {e : Int} {s : State} {r : Fault} :
    rebase e s = .fault r ↔
      s.irqEnabled = true ∧ s.deadline - e < 0 ∧ r = .contractFailure (s.deadline - e) := by
  unfold rebase raiseContractFailure
  split
  · split
    · rename_i h hd
      simp [h, hd, eq_comm]
    · rename_i h hd
      simp [hd, storeDeadline_not_fault]
  · rename_i h
    simp [h]

end Sys2Proof.Machine
end

