-- ==== Sys2Proof/Laws/Meanings.lean ====
section
/-! SUPPORT. One inversion lemma per shared shape of meaning: what an operation leaves when it answers a next state. -/

namespace Sys2Proof.Machine

/-! ### The call of each register -/

@[simp] theorem regCall_chr (s : State) (i : Fin 8) (h : 8 ≤ 13) :
    s.regCall (i.castLE h) = .setGraphicsBank (chrWindow i.val) .kib1 (.idx s.chrBanks[i.val]) := by
  simp [State.regCall]

@[simp] theorem regCall_wram (s : State) : s.regCall 8 = wramCall s.cfg s.wramControl := rfl

@[simp] theorem regCall_prg (s : State) (k : Fin 3) (h : 9 + k.val < 13) :
    s.regCall ⟨9 + k.val, h⟩ = .setProgramBank (prgWindow s.cfg k.val) .kib8 (.idx s.prgBanks[k.val]) := by
  have := k.isLt
  simp [State.regCall, show ¬ (9 + k.val < 8) by omega, show ¬ (9 + k.val = 8) by omega]

@[simp] theorem regCall_mir (s : State) : s.regCall 12 = mirrorCall s.mirroring := rfl

/-! ### What the meanings leave -/

/-- A graphics-bank write answers next exactly under the obligations; the register, the trace, the answer and `tLast`
are all it touches. -/
theorem chrWrite_next {i : Fin 8} {t : Int} {v : Byte} {s s' : State} :
    chrWrite i t v s = .next s' ↔
      s.resetDone = true ∧ s.tLast ≤ t ∧
        s' = { s with
          chrBanks := s.chrBanks.set i v, tLast := t, answer := .nothing
          trace := s.trace ++ [.setGraphicsBank (chrWindow i.val) .kib1 (.idx v)] } := by
  simp only [chrWrite, timed_next, Host.Outcome.next.injEq, applyReg, regCall_chr, State.setChr_chrBanks,
    Vector.getElem_set_self]
  simp only [State.emit, State.setChr, State.setTLast, State.setAnswer, eq_comm]

/-- A program-bank write, likewise. -/
theorem prgWrite_next {k : Fin 3} {t : Int} {v : Byte} {s s' : State} :
    prgWrite k t v s = .next s' ↔
      s.resetDone = true ∧ s.tLast ≤ t ∧
        s' = { s with
          prgBanks := s.prgBanks.set k v, tLast := t, answer := .nothing
          trace := s.trace ++ [.setProgramBank (prgWindow s.cfg k.val) .kib8 (.idx v)] } := by
  simp only [prgWrite, timed_next, Host.Outcome.next.injEq, applyReg, regCall_prg, State.setPrg_prgBanks,
    Vector.getElem_set_self]
  simp only [State.emit, State.setPrg, State.setTLast, State.setAnswer, eq_comm]

/-! ### One inversion lemma per operation -/

/-- The state on which a timed operation's body runs: the answer cleared and `tLast` moved (R65). -/
def State.at (s : State) (t : Int) : State := (s.setAnswer .nothing).setTLast t

@[simp] theorem State.at_mirroring (s : State) (t : Int) : (s.at t).mirroring = s.mirroring := rfl
@[simp] theorem State.at_prgBanks (s : State) (t : Int) : (s.at t).prgBanks = s.prgBanks := rfl
@[simp] theorem State.at_chrBanks (s : State) (t : Int) : (s.at t).chrBanks = s.chrBanks := rfl
@[simp] theorem State.at_command (s : State) (t : Int) : (s.at t).command = s.command := rfl
@[simp] theorem State.at_irqEnabled (s : State) (t : Int) : (s.at t).irqEnabled = s.irqEnabled := rfl
@[simp] theorem State.at_irqCount (s : State) (t : Int) : (s.at t).irqCount = s.irqCount := rfl
@[simp] theorem State.at_wramControl (s : State) (t : Int) : (s.at t).wramControl = s.wramControl := rfl
@[simp] theorem State.at_irqPending (s : State) (t : Int) : (s.at t).irqPending = s.irqPending := rfl
@[simp] theorem State.at_nextTime (s : State) (t : Int) : (s.at t).nextTime = s.nextTime := rfl
@[simp] theorem State.at_resetDone (s : State) (t : Int) : (s.at t).resetDone = s.resetDone := rfl
@[simp] theorem State.at_trace (s : State) (t : Int) : (s.at t).trace = s.trace := rfl
@[simp] theorem State.at_inbox (s : State) (t : Int) : (s.at t).inbox = s.inbox := rfl
@[simp] theorem State.at_cfg (s : State) (t : Int) : (s.at t).cfg = s.cfg := rfl
@[simp] theorem State.at_tLast (s : State) (t : Int) : (s.at t).tLast = t := rfl
@[simp] theorem State.at_answer (s : State) (t : Int) : (s.at t).answer = .nothing := rfl
@[simp] theorem State.at_deadline (s : State) (t : Int) : (s.at t).deadline = s.deadline := rfl

/-- A timed operation whose body always answers next. -/
theorem timed_next_const {t : Int} {s s' : State} {f : State → State} :
    timed t s (fun s => .next (f s)) = .next s' ↔ s.resetDone = true ∧ s.tLast ≤ t ∧ s' = f (s.at t) := by
  rw [timed_next, Host.Outcome.next.injEq, @eq_comm State _ s']
  rfl

/-- A host call whose body always answers next. -/
theorem afterReset_next_const {s s' : State} {f : State → State} :
    afterReset s (fun s => .next (f s)) = .next s' ↔ s.resetDone = true ∧ s' = f (s.setAnswer .nothing) := by
  rw [afterReset_next, Host.Outcome.next.injEq, @eq_comm State _ s']

/-- SEL. -/
theorem execSel_next {t : Int} {v : Byte} {s s' : State} :
    exec (.sel t v) s = .next s' ↔ s.resetDone = true ∧ s.tLast ≤ t ∧ s' = (s.at t).setCommand (selLatch v) := by
  exact timed_next_const

/-- SND. -/
theorem execSnd_next {t : Int} {v : Byte} {s s' : State} :
    exec (.snd t v) s = .next s' ↔ s.resetDone = true ∧ s.tLast ≤ t ∧ s' = s.at t := by
  exact timed_next_const

/-- OUT. -/
theorem execOut_next {t : Int} {v : Byte} {s s' : State} :
    exec (.out t v) s = .next s' ↔ s.resetDone = true ∧ s.tLast ≤ t ∧ s' = s.at t := by
  exact timed_next_const

/-- CHR0. -/
theorem execChr0_next {t : Int} {v : Byte} {s s' : State} :
    exec (.chr0 t v) s = .next s' ↔ s.resetDone = true ∧ s.tLast ≤ t ∧ s' = applyReg 0 ((s.at t).setChr 0 v) := by
  exact timed_next_const

/-- CHR1. -/
theorem execChr1_next {t : Int} {v : Byte} {s s' : State} :
    exec (.chr1 t v) s = .next s' ↔ s.resetDone = true ∧ s.tLast ≤ t ∧ s' = applyReg 1 ((s.at t).setChr 1 v) := by
  exact timed_next_const

/-- CHR2. -/
theorem execChr2_next {t : Int} {v : Byte} {s s' : State} :
    exec (.chr2 t v) s = .next s' ↔ s.resetDone = true ∧ s.tLast ≤ t ∧ s' = applyReg 2 ((s.at t).setChr 2 v) := by
  exact timed_next_const

/-- CHR3. -/
theorem execChr3_next {t : Int} {v : Byte} {s s' : State} :
    exec (.chr3 t v) s = .next s' ↔ s.resetDone = true ∧ s.tLast ≤ t ∧ s' = applyReg 3 ((s.at t).setChr 3 v) := by
  exact timed_next_const

/-- CHR4. -/
theorem execChr4_next {t : Int} {v : Byte} {s s' : State} :
    exec (.chr4 t v) s = .next s' ↔ s.resetDone = true ∧ s.tLast ≤ t ∧ s' = applyReg 4 ((s.at t).setChr 4 v) := by
  exact timed_next_const

/-- CHR5. -/
theorem execChr5_next {t : Int} {v : Byte} {s s' : State} :
    exec (.chr5 t v) s = .next s' ↔ s.resetDone = true ∧ s.tLast ≤ t ∧ s' = applyReg 5 ((s.at t).setChr 5 v) := by
  exact timed_next_const

/-- CHR6. -/
theorem execChr6_next {t : Int} {v : Byte} {s s' : State} :
    exec (.chr6 t v) s = .next s' ↔ s.resetDone = true ∧ s.tLast ≤ t ∧ s' = applyReg 6 ((s.at t).setChr 6 v) := by
  exact timed_next_const

/-- CHR7. -/
theorem execChr7_next {t : Int} {v : Byte} {s s' : State} :
    exec (.chr7 t v) s = .next s' ↔ s.resetDone = true ∧ s.tLast ≤ t ∧ s' = applyReg 7 ((s.at t).setChr 7 v) := by
  exact timed_next_const

/-- WRAM. -/
theorem execWram_next {t : Int} {v : Byte} {s s' : State} :
    exec (.wram t v) s = .next s' ↔ s.resetDone = true ∧ s.tLast ≤ t ∧ s' = applyReg 8 ((s.at t).setWram v) := by
  exact timed_next_const

/-- PRG0. -/
theorem execPrg0_next {t : Int} {v : Byte} {s s' : State} :
    exec (.prg0 t v) s = .next s' ↔ s.resetDone = true ∧ s.tLast ≤ t ∧ s' = applyReg 9 ((s.at t).setPrg 0 v) := by
  exact timed_next_const

/-- PRG1. -/
theorem execPrg1_next {t : Int} {v : Byte} {s s' : State} :
    exec (.prg1 t v) s = .next s' ↔ s.resetDone = true ∧ s.tLast ≤ t ∧ s' = applyReg 10 ((s.at t).setPrg 1 v) := by
  exact timed_next_const

/-- PRG2. -/
theorem execPrg2_next {t : Int} {v : Byte} {s s' : State} :
    exec (.prg2 t v) s = .next s' ↔ s.resetDone = true ∧ s.tLast ≤ t ∧ s' = applyReg 11 ((s.at t).setPrg 2 v) := by
  exact timed_next_const

/-- MIR. -/
theorem execMir_next {t : Int} {v : Byte} {s s' : State} :
    exec (.mir t v) s = .next s' ↔ s.resetDone = true ∧ s.tLast ≤ t ∧ s' = applyReg 12 ((s.at t).setMirroring (mirMode v)) := by
  exact timed_next_const

/-- IRQCTL. -/
theorem execIrqctl_next {t : Int} {v : Byte} {s s' : State} :
    exec (.irqctl t v) s = .next s' ↔ s.resetDone = true ∧ s.tLast ≤ t ∧
      ((irqBit v = true ∧ arm t ((advance t (s.at t)).setEnabled true) = .next s') ∨
        (irqBit v = false ∧ s' = ((advance t (s.at t)).setEnabled false).setPending false)) := by
  simp only [exec, execIrqctl, timed_next, State.at]
  cases irqBit v <;> simp [@eq_comm State _ s']

/-- IRQLO. -/
theorem execIrqlo_next {t : Int} {v : Byte} {s s' : State} :
    exec (.irqlo t v) s = .next s' ↔ s.resetDone = true ∧ s.tLast ≤ t ∧
      rearmIfEnabled t ((advance t (s.at t)).setCount (withLow (advance t (s.at t)).irqCount v)) = .next s' := by
  simp only [exec, execIrqlo, timed_next, State.at]

/-- IRQHI. -/
theorem execIrqhi_next {t : Int} {v : Byte} {s s' : State} :
    exec (.irqhi t v) s = .next s' ↔ s.resetDone = true ∧ s.tLast ≤ t ∧
      rearmIfEnabled t ((advance t (s.at t)).setCount (withHigh (advance t (s.at t)).irqCount v)) = .next s' := by
  simp only [exec, execIrqhi, timed_next, State.at]

/-- RESET. -/
theorem execReset_next {s s' : State} :
    exec .reset s = .next s' ↔ s' = applyMapping s.resetRegisters.pinTop := by
  simp only [exec, execReset, Host.Outcome.next.injEq, @eq_comm State _ s']

/-- RUN. -/
theorem execRun_next {t : Int} {s s' : State} :
    exec (.run t) s = .next s' ↔ s.resetDone = true ∧ s.tLast ≤ t ∧ s' = advance t (s.at t) := by
  exact timed_next_const

/-- ENDFRAME. -/
theorem execEndframe_next {t : Int} {s s' : State} :
    exec (.endframe t) s = .next s' ↔
      s.resetDone = true ∧ s.tLast ≤ t ∧ rebase t ((advance t (s.at t)).setTLast 0) = .next s' := by
  simp only [exec, execEndframe, timed_next, State.at]

/-- NEXTIRQ. -/
theorem execNextirq_next {t : Int} {s s' : State} :
    exec (.nextirq t) s = .next s' ↔ s.resetDone = true ∧ s' = s.setAnswer (.time (s.nextIrq t)) := by
  exact afterReset_next_const (f := fun s => s.setAnswer (.time (s.nextIrq t)))

/-- APPLY. -/
theorem execApply_next {s s' : State} :
    exec .apply s = .next s' ↔ s.resetDone = true ∧ s' = applyMapping (s.setAnswer .nothing) := by
  exact afterReset_next_const

/-- SAVE. -/
theorem execSave_next {s s' : State} :
    exec .save s = .next s' ↔ s.resetDone = true ∧ s' = s.setAnswer (.block s.block) := by
  exact afterReset_next_const (f := fun s => s.setAnswer (.block s.block))

/-- LOAD. -/
theorem execLoad_next {b : List Byte} {s s' : State} :
    exec (.load b) s = .next s' ↔
      s.resetDone = true ∧ blockOk b = true ∧ s' = (s.setAnswer .nothing).loadBlock b := by
  simp only [exec, execLoad, afterReset_next]
  cases blockOk b <;> simp [@eq_comm State _ s']

/-! ### The step -/

/-- What a step can do: idle, run the decoded operation with the request taken, or refuse a request that names none. -/
theorem step_cases (s : State) :
    (s.inbox = [] ∧ step s = .next s) ∨
    (∃ r rest i, s.inbox = r :: rest ∧ decode s.cfg s.command r = .ok i ∧ step s = exec i { s with inbox := rest }) ∨
    (∃ r rest e, s.inbox = r :: rest ∧ decode s.cfg s.command r = .error e ∧ step s = .refused (.undecodable e)) := by
  unfold step
  cases hi : s.inbox with
  | nil => exact .inl ⟨rfl, by simp⟩
  | cons r rest =>
    cases hd : decode s.cfg s.command r with
    | ok i => exact .inr (.inl ⟨r, rest, i, rfl, hd, by simp [hd]⟩)
    | error e => exact .inr (.inr ⟨r, rest, e, rfl, hd, by simp [hd]⟩)

end Sys2Proof.Machine
end

