-- ==== Sys2Proof/Laws/Current.lean ====
section
/-! SUPPORT. When a bus is current: each call names one entry of the view, the thirteen registers name thirteen different
entries, and a bus is current exactly when every register's entry holds what its call says. -/

namespace Sys2Proof.Machine

/-- The one entry of the view that a call overwrites. -/
inductive Entry where
  | prg (base : Nat)
  | chr (window : Nat)
  | ram
  | mirror
  deriving DecidableEq, Repr

/-- The entry of a call. -/
def Call.entry : Call → Entry
  | .setProgramBank a _ _ => .prg a
  | .setGraphicsBank a _ _ => .chr (a / chrGran)
  | .enableExtraRam _ => .ram
  | .setMirrorVertical => .mirror
  | .setMirrorHorizontal => .mirror
  | .setMirrorSingleScreen _ => .mirror

/-- The view's entry is what the call says. -/
def BusView.holds (v : BusView) : Call → Prop
  | .setProgramBank a _ x => BankMap.get a v.prgWin = some x
  | .setGraphicsBank a _ x => BankMap.get (a / chrGran) v.chrWin = some x
  | .enableExtraRam b => v.extraRam = some b
  | .setMirrorVertical => v.mirror = some .vertical
  | .setMirrorHorizontal => v.mirror = some .horizontal
  | .setMirrorSingleScreen w => v.mirror = some (if w = 0 then .singleA else .singleB)

/-- A call changes nothing exactly when its entry already is what it says. -/
theorem BusView.apply_eq_self_iff {v : BusView} (hw : v.wf = true) (c : Call) : v.apply c = v ↔ v.holds c := by
  simp only [BusView.wf, Bool.and_eq_true] at hw
  have key (k x) (m : BankMap) (hm : m.wf = true) : BankMap.set k x m = m ↔ BankMap.get k m = some x :=
    ⟨fun h => by rw [← h]; simp, BankMap.set_eq_self hm⟩
  obtain ⟨p, g, e, m⟩ := v
  cases c <;> simp only [BusView.apply, BusView.holds, BusView.mk.injEq, true_and, and_true]
  · exact key _ _ _ hw.1
  · exact key _ _ _ hw.2
  all_goals exact eq_comm

/-- After a call its entry is what it says. -/
theorem BusView.holds_apply (v : BusView) (c : Call) : (v.apply c).holds c := by
  cases c <;> simp [BusView.apply, BusView.holds]

/-- A call leaves every other entry alone. -/
theorem BusView.holds_apply_of_ne {v : BusView} {c d : Call} (h : c.entry ≠ d.entry) (hc : v.holds c) :
    (v.apply d).holds c := by
  cases c <;> cases d <;> simp_all [Call.entry, BusView.holds, BusView.apply, BankMap.get_set_of_ne]

/-- A list of calls leaves an entry that none of them names alone. -/
theorem BusView.holds_run_of_ne {v : BusView} {c : Call} {l : List Call} (h : ∀ d ∈ l, c.entry ≠ d.entry)
    (hc : v.holds c) : (v.run l).holds c := by
  induction l generalizing v with
  | nil => exact hc
  | cons d l ih =>
    exact ih (fun d hd => h d (by simp [hd])) (BusView.holds_apply_of_ne (h d (by simp)) hc)

/-- The bus is current exactly when it holds the call of every register. -/
theorem busCurrent_iff (s : State) : s.busCurrent = true ↔ ∀ c : Fin 13, s.bus.holds (s.regCall c) := by
  simp only [State.busCurrent, List.all_eq_true, List.mem_finRange, true_implies, decide_eq_true_eq]
  exact forall_congr' fun c => BusView.apply_eq_self_iff s.bus_wf _

/-! ### The entries of the thirteen registers -/

theorem entry_chr (s : State) (c : Fin 13) (h : c.val < 8) : (s.regCall c).entry = .chr c.val := by
  simp [State.regCall, h, Call.entry, chrWindow, chrGran]

theorem entry_prg (s : State) (c : Fin 13) (h : 9 ≤ c.val) (h' : c.val < 12) :
    (s.regCall c).entry = .prg (prgWindow s.cfg (c.val - 9)) := by
  unfold State.regCall
  rw [dif_neg (by omega), if_neg (by omega), dif_pos (by omega)]
  rfl

theorem entry_wram (s : State) :
    (s.regCall 8).entry = .ram ∨ (s.regCall 8).entry = .prg s.cfg.wramBase := by
  rw [regCall_wram, wramCall]
  split
  · exact .inl rfl
  · exact .inr rfl

theorem entry_mir (s : State) : (s.regCall 12).entry = .mirror := by
  rw [regCall_mir, mirrorCall]
  split
  · rfl
  · split <;> rfl

/-- Which entry a register may name: a number that tells the registers apart. -/
def Entry.owner (c : Config) : Entry → Nat
  | .chr w => w
  | .ram => 8
  | .prg a => if a = c.wramBase then 8 else 9 + (a - c.prgBase) / prgGran
  | .mirror => 13

theorem owner_regCall {s : State} (hc : s.cfg.wf = true) (c : Fin 13) :
    (s.regCall c).entry.owner s.cfg = if c.val = 12 then 13 else c.val := by
  rw [Config.wf_iff] at hc
  by_cases h1 : c.val < 8
  · rw [entry_chr s c h1, if_neg (by omega)]; rfl
  by_cases h2 : c.val = 8
  · obtain rfl : c = 8 := Fin.ext h2
    obtain h | h := entry_wram s <;> rw [h] <;> simp [Entry.owner]
  by_cases h3 : c.val < 12
  · rw [entry_prg s c (by omega) h3]
    have hw : prgWindow s.cfg (c.val - 9) = s.cfg.prgBase + (c.val - 9) * 0x2000 := rfl
    have hg : prgGran = 0x2000 := rfl
    rw [Entry.owner, if_neg (by omega), if_neg (by omega), hw, hg]
    omega
  · obtain rfl : c = 12 := Fin.ext (by omega)
    rw [entry_mir]; rfl

/-- With well-formed parameters two different registers name two different entries, in any two states. -/
theorem entry_ne {s s' : State} (hcfg : s'.cfg = s.cfg) (hc : s.cfg.wf = true) {i j : Fin 13} (h : i ≠ j) :
    (s.regCall i).entry ≠ (s'.regCall j).entry := by
  intro he
  have h1 := owner_regCall hc i
  have h2 := owner_regCall (s := s') (hcfg ▸ hc) j
  rw [he, ← hcfg, h2] at h1
  apply h
  apply Fin.ext
  split at h1 <;> split at h1 <;> omega

/-- No register names the topmost program window. -/
theorem entry_ne_top {s : State} (hc : s.cfg.wf = true) (c : Fin 13) :
    (s.regCall c).entry ≠ .prg (topBase s.cfg) := by
  intro he
  have h1 := owner_regCall hc c
  have h2 : (Entry.prg (topBase s.cfg)).owner s.cfg = 12 := by
    rw [Config.wf_iff] at hc
    have hw : topBase s.cfg = s.cfg.prgBase + 0x6000 := rfl
    have hg : prgGran = 0x2000 := rfl
    rw [Entry.owner, if_neg (by omega), hw, hg]
    omega
  rw [he, h2] at h1
  split at h1 <;> omega

/-! ### How an operation keeps a bus current -/

/-- A call depends on the banks, the mirroring, the RAM control and the parameters alone. -/
theorem regCall_congr {s s' : State} (h1 : s'.cfg = s.cfg) (h2 : s'.chrBanks = s.chrBanks)
    (h3 : s'.prgBanks = s.prgBanks) (h4 : s'.mirroring = s.mirroring) (h5 : s'.wramControl = s.wramControl) (c : Fin 13) :
    s'.regCall c = s.regCall c := by
  simp only [State.regCall, h1, h2, h3, h4, h5]

/-- A state with the same calls and the same trace is as current. -/
theorem busCurrent_congr {s s' : State} (ht : s'.trace = s.trace) (hr : ∀ c, s'.regCall c = s.regCall c)
    (h : s.busCurrent = true) : s'.busCurrent = true := by
  rw [busCurrent_iff] at *
  have hb : s'.bus = s.bus := by rw [State.bus, State.bus, ht]
  intro c
  rw [hr, hb]
  exact h c

/-- Changing one register and applying it keeps the bus current. -/
theorem busCurrent_applyReg {s s' : State} (hc : s.cfg.wf = true) (hcfg : s'.cfg = s.cfg) (ht : s'.trace = s.trace)
    (c : Fin 13) (hr : ∀ d, d ≠ c → s'.regCall d = s.regCall d) (h : s.busCurrent = true) :
    (applyReg c s').busCurrent = true := by
  rw [busCurrent_iff] at *
  have hb : s'.bus = s.bus := by rw [State.bus, State.bus, ht]
  intro d
  simp only [applyReg, State.bus_emit, regCall_emit, hb]
  by_cases hd : d = c
  · rw [hd]; exact BusView.holds_apply _ _
  · rw [hr d hd]
    exact BusView.holds_apply_of_ne (entry_ne hcfg hc hd) (h d)

/-- After the calls of a list of registers, every register of the list is held. -/
theorem holds_run_regs {s : State} (hc : s.cfg.wf = true) (v : BusView) (l : List (Fin 13)) (c : Fin 13)
    (h : c ∈ l ∨ v.holds (s.regCall c)) : (v.run (l.map s.regCall)).holds (s.regCall c) := by
  induction l generalizing v with
  | nil => simpa [BusView.run] using h
  | cons d l ih =>
    refine ih (v.apply (s.regCall d)) ?_
    by_cases hd : c = d
    · right; rw [hd]; exact BusView.holds_apply _ _
    · rcases h with h | h
      · left; simpa [hd] using h
      · right; exact BusView.holds_apply_of_ne (entry_ne rfl hc hd) h

/-- `applyMapping` applies every register. -/
theorem mem_mappingOrder : ∀ c : Fin 13, c ∈ mappingOrder := by decide

/-- The view after `applyMapping`. -/
theorem bus_applyMapping (s : State) : (applyMapping s).bus = s.bus.run (mappingOrder.map s.regCall) := by
  rw [applyMapping_eq, State.bus, State.bus, BusView.run_append]

end Sys2Proof.Machine
end

