-- ==== Sys2Proof/Laws/PerInstr.lean ====
section
/-! SUPPORT. A fact about every operation, proved one constructor at a time: its encoding lies in the row of the opcode
table that bears its mnemonic (R84, R87). -/

namespace Sys2Proof.Laws.EncodesItsRow

/-- The key or call number of the encoding, under any latch it admits, matches the row of its mnemonic. -/
def Statement (i : Instr) : Prop :=
  ∀ latch : Latch,
    match i.encoding with
    | .write r l _ v =>
      ∃ row ∈ writeRows, row.mnemonic = i.mnemonic ∧ makeKey r (l.getD latch) v &&& row.mask = row.pattern
    | .call h _ => ∃ row ∈ callRows, row.mnemonic = i.mnemonic ∧ h &&& row.mask = row.pattern

theorem sel (t : Int) (v : Byte) : Statement (.sel t v) := by
  intro latch
  exact ⟨⟨"SEL", 0x3000, 0x0000⟩, by decide, rfl, (makeKey_mask_region _ _ _).trans (by decide)⟩

theorem chr0 (t : Int) (v : Byte) : Statement (.chr0 t v) := by
  intro latch
  exact ⟨⟨"CHR0", 0x3F00, 0x1000⟩, by decide, rfl, (makeKey_mask_data 0x0 v).trans (by decide)⟩

theorem chr1 (t : Int) (v : Byte) : Statement (.chr1 t v) := by
  intro latch
  exact ⟨⟨"CHR1", 0x3F00, 0x1100⟩, by decide, rfl, (makeKey_mask_data 0x1 v).trans (by decide)⟩

theorem chr2 (t : Int) (v : Byte) : Statement (.chr2 t v) := by
  intro latch
  exact ⟨⟨"CHR2", 0x3F00, 0x1200⟩, by decide, rfl, (makeKey_mask_data 0x2 v).trans (by decide)⟩

theorem chr3 (t : Int) (v : Byte) : Statement (.chr3 t v) := by
  intro latch
  exact ⟨⟨"CHR3", 0x3F00, 0x1300⟩, by decide, rfl, (makeKey_mask_data 0x3 v).trans (by decide)⟩

theorem chr4 (t : Int) (v : Byte) : Statement (.chr4 t v) := by
  intro latch
  exact ⟨⟨"CHR4", 0x3F00, 0x1400⟩, by decide, rfl, (makeKey_mask_data 0x4 v).trans (by decide)⟩

theorem chr5 (t : Int) (v : Byte) : Statement (.chr5 t v) := by
  intro latch
  exact ⟨⟨"CHR5", 0x3F00, 0x1500⟩, by decide, rfl, (makeKey_mask_data 0x5 v).trans (by decide)⟩

theorem chr6 (t : Int) (v : Byte) : Statement (.chr6 t v) := by
  intro latch
  exact ⟨⟨"CHR6", 0x3F00, 0x1600⟩, by decide, rfl, (makeKey_mask_data 0x6 v).trans (by decide)⟩

theorem chr7 (t : Int) (v : Byte) : Statement (.chr7 t v) := by
  intro latch
  exact ⟨⟨"CHR7", 0x3F00, 0x1700⟩, by decide, rfl, (makeKey_mask_data 0x7 v).trans (by decide)⟩

theorem wram (t : Int) (v : Byte) : Statement (.wram t v) := by
  intro latch
  exact ⟨⟨"WRAM", 0x3F00, 0x1800⟩, by decide, rfl, (makeKey_mask_data 0x8 v).trans (by decide)⟩

theorem prg0 (t : Int) (v : Byte) : Statement (.prg0 t v) := by
  intro latch
  exact ⟨⟨"PRG0", 0x3F00, 0x1900⟩, by decide, rfl, (makeKey_mask_data 0x9 v).trans (by decide)⟩

theorem prg1 (t : Int) (v : Byte) : Statement (.prg1 t v) := by
  intro latch
  exact ⟨⟨"PRG1", 0x3F00, 0x1A00⟩, by decide, rfl, (makeKey_mask_data 0xA v).trans (by decide)⟩

theorem prg2 (t : Int) (v : Byte) : Statement (.prg2 t v) := by
  intro latch
  exact ⟨⟨"PRG2", 0x3F00, 0x1B00⟩, by decide, rfl, (makeKey_mask_data 0xB v).trans (by decide)⟩

theorem mir (t : Int) (v : Byte) : Statement (.mir t v) := by
  intro latch
  exact ⟨⟨"MIR", 0x3F00, 0x1C00⟩, by decide, rfl, (makeKey_mask_data 0xC v).trans (by decide)⟩

theorem irqctl (t : Int) (v : Byte) : Statement (.irqctl t v) := by
  intro latch
  exact ⟨⟨"IRQCTL", 0x3F00, 0x1D00⟩, by decide, rfl, (makeKey_mask_data 0xD v).trans (by decide)⟩

theorem irqlo (t : Int) (v : Byte) : Statement (.irqlo t v) := by
  intro latch
  exact ⟨⟨"IRQLO", 0x3F00, 0x1E00⟩, by decide, rfl, (makeKey_mask_data 0xE v).trans (by decide)⟩

theorem irqhi (t : Int) (v : Byte) : Statement (.irqhi t v) := by
  intro latch
  exact ⟨⟨"IRQHI", 0x3F00, 0x1F00⟩, by decide, rfl, (makeKey_mask_data 0xF v).trans (by decide)⟩

theorem snd (t : Int) (v : Byte) : Statement (.snd t v) := by
  intro latch
  exact ⟨⟨"SND", 0x3000, 0x2000⟩, by decide, rfl, (makeKey_mask_region _ _ _).trans (by decide)⟩

theorem out (t : Int) (v : Byte) : Statement (.out t v) := by
  intro latch
  exact ⟨⟨"OUT", 0x3000, 0x3000⟩, by decide, rfl, (makeKey_mask_region _ _ _).trans (by decide)⟩

theorem reset : Statement (.reset) := by
  intro latch
  exact ⟨⟨"RESET", 7, 0⟩, by decide, rfl, by decide⟩

theorem run (t : Int) : Statement (.run t) := by
  intro latch
  exact ⟨⟨"RUN", 7, 1⟩, by decide, rfl, by decide⟩

theorem endframe (t : Int) : Statement (.endframe t) := by
  intro latch
  exact ⟨⟨"ENDFRAME", 7, 2⟩, by decide, rfl, by decide⟩

theorem nextirq (t : Int) : Statement (.nextirq t) := by
  intro latch
  exact ⟨⟨"NEXTIRQ", 7, 3⟩, by decide, rfl, by decide⟩

theorem apply : Statement (.apply) := by
  intro latch
  exact ⟨⟨"APPLY", 7, 4⟩, by decide, rfl, by decide⟩

theorem save : Statement (.save) := by
  intro latch
  exact ⟨⟨"SAVE", 7, 5⟩, by decide, rfl, by decide⟩

theorem load (b : List Byte) : Statement (.load b) := by
  intro latch
  exact ⟨⟨"LOAD", 7, 6⟩, by decide, rfl, by decide⟩

end Sys2Proof.Laws.EncodesItsRow
end

