-- ==== Sys2Proof/Tests/Slice0.lean ====
section
/-! SUPPORT. The model's own tests. Every expected value is from spec/95_test_vectors.md (the vector is named) or written
out from the patterns of spec/30_encoding.md; none is the model's own answer. After them, one witness for each
statement with hypotheses. -/

namespace Sys2Proof.Tests

open Sys2Proof.Machine

/-! ### Helpers -/

/-- The next state, if there is one. -/
def next? : Host.Outcome State Fault Refusal → Option State
  | .next s => some s
  | .fault _ => none
  | .refused _ => none

/-- The refusal, if there is one. -/
def refusal? : Host.Outcome State Fault Refusal → Option Refusal
  | .next _ => none
  | .fault _ => none
  | .refused r => some r

/-- One step on one request. -/
def send (s : State) (r : Request) : Option State := next? (step { s with inbox := [r] })

/-- One step on a write of `v` to `a` at time `t`, with the latch set to `l` beforehand. -/
def sendTo (s : State) (l : Latch) (t : Int) (a : Addr) (v : Byte) : Option State :=
  send { s with command := l } (.write t a v)

/-- The calls made after reset. -/
def calls (s : State) : List Call := s.trace.drop 14

/-- `en`, `pend`, `cnt`, `nt`, `tLast` of the vectors. -/
def timer (s : State) : Bool × Bool × BitVec 16 × BitVec 32 × Int :=
  (s.irqEnabled, s.irqPending, s.irqCount, s.nextTime, s.tLast)

/-- The start state `A16` of the vectors: armed with 16 cycles at time 100. -/
def a16 : State :=
  { State.reset with irqEnabled := true, irqCount := 0x0010, nextTime := 116, command := 0xD, tLast := 100 }

/-- A timer started with `c` cycles at time 0. -/
def armed (c : BitVec 16) : State :=
  { State.reset with irqEnabled := true, irqCount := c, nextTime := c.setWidth 32 }

/-- The start state of V13.2 and V15.1: registers that differ from each other. -/
def busy : State :=
  { State.reset with
    mirroring := 3, prgBanks := #v[0x11, 0x22, 0x33], chrBanks := #v[1, 2, 3, 4, 5, 6, 7, 8], wramControl := 0x85,
    irqEnabled := true, irqPending := true, irqCount := 5, nextTime := 205, command := 0xB, tLast := 205 }

/-- The persisted block of reset state (section 0 of the vectors). -/
def resetBlock : List Byte := [0, 0, 0, 0, 0, 0, 0, 0, 0, 0, 0, 0, 0, 0, 0xC0, 0xFF, 0xFF, 0, 0, 0, 0]

/-- The block of V14.3. -/
def block143 : List Byte :=
  [0x03, 0x11, 0x22, 0x33, 0x01, 0x02, 0x03, 0x04, 0x05, 0x06, 0x07, 0x08, 0x0B, 0x01, 0x85, 0x34, 0x12, 0x78, 0x56,
    0x34, 0x12]

/-! ### Well-formedness -/

theorem test_wf_refuses_short_block : (Instr.load (List.replicate 20 0)).wf = false := by decide

theorem test_wf_refuses_long_block : (Instr.load (List.replicate 22 0)).wf = false := by decide

theorem test_wf_admits_block : (Instr.load resetBlock).wf = true := by decide

theorem test_config_wf_admits_default : defaultConfig.wf = true := by decide

theorem test_config_wf_refuses_window_at_zero : Config.wf { defaultConfig with winBase := 0 } = false := by decide

theorem test_config_wf_refuses_empty_half : Config.wf { defaultConfig with half := 0 } = false := by decide

theorem test_config_wf_refuses_no_sound_range : Config.wf { defaultConfig with half := 0x4000 } = false := by decide

theorem test_config_wf_refuses_top_past_addresses : Config.wf { defaultConfig with addrTop := 0x10000 } = false := by
  decide

theorem test_config_wf_refuses_unaligned_prg : Config.wf { defaultConfig with prgBase := 0x8001 } = false := by decide

theorem test_config_wf_refuses_high_prg :
    Config.wf { defaultConfig with prgBase := 0xA000, wramBase := 0x4000 } = false := by decide

theorem test_config_wf_refuses_unaligned_wram : Config.wf { defaultConfig with wramBase := 0x6001 } = false := by decide

theorem test_config_wf_refuses_high_wram : Config.wf { defaultConfig with wramBase := 0x10000 } = false := by decide

theorem test_config_wf_refuses_wram_on_prg :
    Config.wf { defaultConfig with wramBase := 0x8000 } = false ∧
      Config.wf { defaultConfig with wramBase := 0xA000 } = false ∧
      Config.wf { defaultConfig with wramBase := 0xC000 } = false ∧
      Config.wf { defaultConfig with wramBase := 0xE000 } = false := by decide

/-! ### Decoding: words written out from the patterns of R81 and R87 -/

theorem test_decode_sel : decodeTableWord 16 0b00_1010_00001001 = some (.sel 0 0b00001001) := by decide
theorem test_decode_chr0 : decodeTableWord 16 0b01_0000_00000111 = some (.chr0 0 0b00000111) := by decide
theorem test_decode_chr1 : decodeTableWord 16 0b01_0001_11111111 = some (.chr1 0 0b11111111) := by decide
theorem test_decode_chr2 : decodeTableWord 16 0b01_0010_00000000 = some (.chr2 0 0b00000000) := by decide
theorem test_decode_chr3 : decodeTableWord 16 0b01_0011_00010010 = some (.chr3 0 0b00010010) := by decide
theorem test_decode_chr4 : decodeTableWord 16 0b01_0100_10000000 = some (.chr4 0 0b10000000) := by decide
theorem test_decode_chr5 : decodeTableWord 16 0b01_0101_00000001 = some (.chr5 0 0b00000001) := by decide
theorem test_decode_chr6 : decodeTableWord 16 0b01_0110_00111100 = some (.chr6 0 0b00111100) := by decide
theorem test_decode_chr7 : decodeTableWord 16 0b01_0111_10101010 = some (.chr7 0 0b10101010) := by decide
theorem test_decode_wram : decodeTableWord 16 0b01_1000_11000000 = some (.wram 0 0b11000000) := by decide
theorem test_decode_prg0 : decodeTableWord 16 0b01_1001_00000101 = some (.prg0 0 0b00000101) := by decide
theorem test_decode_prg1 : decodeTableWord 16 0b01_1010_00011111 = some (.prg1 0 0b00011111) := by decide
theorem test_decode_prg2 : decodeTableWord 16 0b01_1011_11111110 = some (.prg2 0 0b11111110) := by decide
theorem test_decode_mir : decodeTableWord 16 0b01_1100_00000011 = some (.mir 0 0b00000011) := by decide
theorem test_decode_irqctl : decodeTableWord 16 0b01_1101_00000001 = some (.irqctl 0 0b00000001) := by decide
theorem test_decode_irqlo : decodeTableWord 16 0b01_1110_00010000 = some (.irqlo 0 0b00010000) := by decide
theorem test_decode_irqhi : decodeTableWord 16 0b01_1111_10011100 = some (.irqhi 0 0b10011100) := by decide
theorem test_decode_snd : decodeTableWord 16 0b10_1000_00001111 = some (.snd 0 0b00001111) := by decide
theorem test_decode_out : decodeTableWord 16 0b11_1000_11111111 = some (.out 0 0b11111111) := by decide
theorem test_decode_reset : decodeTableWord 8 0b000 = some .reset := by decide
theorem test_decode_run : decodeTableWord 8 0b001 = some (.run 0) := by decide
theorem test_decode_endframe : decodeTableWord 8 0b010 = some (.endframe 0) := by decide
theorem test_decode_nextirq : decodeTableWord 8 0b011 = some (.nextirq 0) := by decide
theorem test_decode_apply : decodeTableWord 8 0b100 = some .apply := by decide
theorem test_decode_save : decodeTableWord 8 0b101 = some .save := by decide
theorem test_decode_load : decodeTableWord 8 0b110 = some (.load (List.replicate 21 0)) := by decide

/-- Call number 7 names nothing (R81), and a bit above the word names nothing. -/
theorem test_decode_refuses_reserved :
    decodeTableWord 8 0b111 = none ∧ decodeTableWord 8 0b1000 = none ∧ decodeTableWord 16 0x4000 = none := by decide

/-- A call with arguments of another form than R81 gives it names nothing. -/
theorem test_decode_refuses_arguments :
    decode defaultConfig 0 (.call 0 (.time 5)) = .error (.badArguments 0) ∧
      decode defaultConfig 0 (.call 1 .none) = .error (.badArguments 1) ∧
      decode defaultConfig 0 (.call 6 (.bytes (List.replicate 20 0))) = .error (.badArguments 6) ∧
      decode defaultConfig 0 (.call 7 .none) = .error (.noSuchCall 7) := ⟨rfl, rfl, rfl, rfl⟩

/-- V1: the twelve addresses, with the latch at 0x3. -/
theorem test_decode_regions :
    ([0x0000, 0x5FFF, 0x6000, 0x7FFF, 0x8000, 0x9FFF, 0xA000, 0xBFFF, 0xC000, 0xDFFF, 0xE000, 0xFFFF] : List Addr).map
        (fun a => makeKey (region defaultConfig a) 0x3 0xAB) =
      [0x33AB, 0x33AB, 0x33AB, 0x33AB, 0x03AB, 0x03AB, 0x13AB, 0x13AB, 0x23AB, 0x23AB, 0x23AB, 0x23AB] := by decide

/-- R92: the first address of each range; S4: the key of the data write. -/
theorem test_encode :
    encode defaultConfig (.sel 5 0x1C) = .write 5 0x8000 0x1C ∧
      encode defaultConfig (.prg0 0 0x05) = .write 0 0xA000 0x05 ∧
      encode defaultConfig (.snd 7 0x0F) = .write 7 0xC000 0x0F ∧
      encodeKey 0x9 (.prg0 0 0x05) = some 0x1905 ∧ encode defaultConfig .save = .call 5 .none := by decide

/-- S4's data write as a table word, run as the first operation after reset. -/
theorem test_fetch_word :
    (next? (step (State.reset.withFetchWord 16 0b01100100000101))).map (fun s => (s.prgBanks[0], calls s)) =
      some (0x05, [.setProgramBank 0x8000 .kib8 (.idx 5)]) := by decide

/-! ### One step per operation -/

/-- V2, row 1. -/
theorem test_sel_drops_high_bits :
    (sendTo State.reset 0x0 5 0x8000 0x1C).map (fun s => (s.command, calls s, s.tLast)) = some (0xC, [], 5) := by decide

/-- V2, row 3: any address of the range. -/
theorem test_sel_any_address : (sendTo State.reset 0x9 0 0x9ABC 0x1C).map (·.command) = some 0xC := by decide

/-- V3. -/
theorem test_chr0 : (sendTo State.reset 0 0 0xA000 0x07).map (fun s => (s.chrBanks[0], calls s)) =
    some (0x07, [.setGraphicsBank 0x0000 .kib1 (.idx 7)]) := by decide
theorem test_chr1 : (sendTo State.reset 1 0 0xA000 0xFF).map (fun s => (s.chrBanks[1], calls s)) =
    some (0xFF, [.setGraphicsBank 0x0400 .kib1 (.idx 255)]) := by decide
theorem test_chr2 : (sendTo busy 2 205 0xA000 0x00).map (fun s => (s.chrBanks[2], calls s)) =
    some (0x00, [.setGraphicsBank 0x0800 .kib1 (.idx 0)]) := by decide
theorem test_chr3 : (sendTo State.reset 3 0 0xA000 0x12).map (fun s => (s.chrBanks[3], calls s)) =
    some (0x12, [.setGraphicsBank 0x0C00 .kib1 (.idx 18)]) := by decide
theorem test_chr4 : (sendTo State.reset 4 0 0xA000 0x80).map (fun s => (s.chrBanks[4], calls s)) =
    some (0x80, [.setGraphicsBank 0x1000 .kib1 (.idx 128)]) := by decide
theorem test_chr5 : (sendTo State.reset 5 0 0xA000 0x01).map (fun s => (s.chrBanks[5], calls s)) =
    some (0x01, [.setGraphicsBank 0x1400 .kib1 (.idx 1)]) := by decide
theorem test_chr6 : (sendTo State.reset 6 0 0xA000 0x3C).map (fun s => (s.chrBanks[6], calls s)) =
    some (0x3C, [.setGraphicsBank 0x1800 .kib1 (.idx 60)]) := by decide
theorem test_chr7 : (sendTo State.reset 7 0 0xA000 0xAA).map (fun s => (s.chrBanks[7], calls s)) =
    some (0xAA, [.setGraphicsBank 0x1C00 .kib1 (.idx 170)]) := by decide

/-- V4: bank mode ignores bit 7, and the whole byte is stored. -/
theorem test_wram_bank_mode : (sendTo State.reset 8 0 0xA000 0x85).map (fun s => (s.wramControl, calls s)) =
    some (0x85, [.setProgramBank 0x6000 .kib8 (.idx 5)]) := by decide

/-- V4: RAM mode ignores bits 5:0. -/
theorem test_wram_ram_mode : (sendTo State.reset 8 0 0xA000 0x7F).map (fun s => (s.wramControl, calls s)) =
    some (0x7F, [.enableExtraRam false]) := by decide

/-- V5. -/
theorem test_prg0 : (sendTo State.reset 9 0 0xA000 0xFF).map (fun s => (s.prgBanks[0], calls s)) =
    some (0xFF, [.setProgramBank 0x8000 .kib8 (.idx 255)]) := by decide
theorem test_prg1 : (sendTo State.reset 0xA 0 0xA000 0x1F).map (fun s => (s.prgBanks[1], calls s)) =
    some (0x1F, [.setProgramBank 0xA000 .kib8 (.idx 31)]) := by decide
theorem test_prg2 : (sendTo State.reset 0xB 0 0xA000 0xFE).map (fun s => (s.prgBanks[2], calls s)) =
    some (0xFE, [.setProgramBank 0xC000 .kib8 (.idx 254)]) := by decide

/-- S5. -/
theorem test_mir_single_screen : (sendTo State.reset 0xC 0 0xA000 0x03).map (fun s => (s.mirroring, calls s)) =
    some (3, [.setMirrorSingleScreen 1]) := by decide

/-- V6: bit 2 is dropped. -/
theorem test_mir_drops_bit2 : (sendTo State.reset 0xC 0 0xA000 0x05).map (fun s => (s.mirroring, calls s)) =
    some (1, [.setMirrorHorizontal]) := by decide

/-- V7.6: expired inside the write, then armed again. -/
theorem test_irqctl_enable_at_deadline : (sendTo a16 0xD 116 0xA000 0x01).map timer =
    some (true, true, 0xFFFF, 65651, 116) := by decide

/-- V7.4: bits 7:1 ignored, the countdown kept. -/
theorem test_irqctl_disable : (sendTo a16 0xD 110 0xA000 0xFE).map timer = some (false, false, 6, 116, 110) := by decide

/-- V8.3: the byte is replaced in the advanced countdown. -/
theorem test_irqlo_running : (sendTo (armed 0x0200) 0xE 300 0xA000 0x05).map timer =
    some (true, false, 5, 305, 300) := by decide

/-- V8.6: at the deadline. -/
theorem test_irqlo_at_deadline : (sendTo a16 0xE 116 0xA000 0x20).map timer =
    some (false, true, 0xFF20, 116, 116) := by decide

/-- V9.3. -/
theorem test_irqhi_running : (sendTo (armed 0x1234) 0xF 100 0xA000 0x00).map timer =
    some (true, false, 0x00D0, 308, 100) := by decide

/-- V9.4. -/
theorem test_irqhi_at_deadline : (sendTo a16 0xF 116 0xA000 0x01).map timer =
    some (false, true, 0x01FF, 116, 116) := by decide

/-- V16, row 3: no IRQCTL although the latch is 0xD, and no advance. -/
theorem test_snd_is_no_data_write : (sendTo a16 0xD 116 0xFFFF 0x00).map (fun s => (timer s, calls s)) =
    some ((true, false, 0x0010, 116, 116), []) := by decide

/-- V16, row 4: the window that command 0x8 programs is no write target. -/
theorem test_out : (sendTo State.reset 0x8 3 0x6000 0x55).map (fun s => (s.wramControl, calls s, s.tLast)) =
    some (0xC0, [], 3) := by decide

/-- V15.1: reset state and the fourteen calls, from a state with every register set. -/
theorem test_reset :
    (send busy (.call 0 .none)).map (·.block) = some resetBlock ∧
    (send busy (.call 0 .none)).map timer = some (false, false, 0xFFFF, 0, 0) ∧
    (send busy (.call 0 .none)).map calls = some
      [.setProgramBank 0xE000 .kib8 .last, .setProgramBank 0x8000 .kib8 (.idx 0), .setProgramBank 0xA000 .kib8 (.idx 0),
       .setProgramBank 0xC000 .kib8 (.idx 0), .setGraphicsBank 0x0000 .kib1 (.idx 0),
       .setGraphicsBank 0x0400 .kib1 (.idx 0), .setGraphicsBank 0x0800 .kib1 (.idx 0),
       .setGraphicsBank 0x0C00 .kib1 (.idx 0), .setGraphicsBank 0x1000 .kib1 (.idx 0),
       .setGraphicsBank 0x1400 .kib1 (.idx 0), .setGraphicsBank 0x1800 .kib1 (.idx 0),
       .setGraphicsBank 0x1C00 .kib1 (.idx 0), .setMirrorVertical, .enableExtraRam true] := by decide

/-- V10.4: one cycle before the deadline. -/
theorem test_run_before_deadline : (send a16 (.call 1 (.time 115))).map timer =
    some (true, false, 1, 116, 115) := by decide

/-- V10.5: at the deadline. -/
theorem test_run_at_deadline : (send a16 (.call 1 (.time 116))).map timer =
    some (false, true, 0xFFFF, 116, 116) := by decide

/-- V11.3: a deadline at the boundary expires in the old frame and is not rebased. -/
theorem test_endframe_at_boundary : (send (armed 0x7454) (.call 2 (.time 29780))).map timer =
    some (false, true, 0xFFFF, 29780, 0) := by decide

/-- V11.4: a deadline one cycle later is rebased to 1. -/
theorem test_endframe_rebases : (send (armed 0x7455) (.call 2 (.time 29780))).map timer =
    some (true, false, 1, 1, 0) := by decide

/-- V12, row 2, and V17: a past deadline is answered as it is, and the query carries no obligation. -/
theorem test_nextirq_armed : (send a16 (.call 3 (.time 5))).map (fun s => (s.answer, timer s)) =
    some (.time (some 116), (true, false, 0x0010, 116, 100)) := by decide

/-- V12, row 4: pending answers the present time. -/
theorem test_nextirq_pending : (send busy (.call 3 (.time 200))).map (·.answer) = some (.time (some 200)) := by decide

/-- V13.2. -/
theorem test_apply : (send busy (.call 4 .none)).map calls =
    some [.setProgramBank 0x8000 .kib8 (.idx 17), .setProgramBank 0xA000 .kib8 (.idx 34),
      .setProgramBank 0xC000 .kib8 (.idx 51), .setGraphicsBank 0x0000 .kib1 (.idx 1),
      .setGraphicsBank 0x0400 .kib1 (.idx 2), .setGraphicsBank 0x0800 .kib1 (.idx 3),
      .setGraphicsBank 0x0C00 .kib1 (.idx 4), .setGraphicsBank 0x1000 .kib1 (.idx 5),
      .setGraphicsBank 0x1400 .kib1 (.idx 6), .setGraphicsBank 0x1800 .kib1 (.idx 7),
      .setGraphicsBank 0x1C00 .kib1 (.idx 8), .setMirrorSingleScreen 1,
      .setProgramBank 0x6000 .kib8 (.idx 5)] := by decide

/-- V14.2. -/
theorem test_save :
    (send { State.reset with irqEnabled := true, irqCount := 0x9C40, nextTime := 41000, command := 0xD }
        (.call 5 .none)).map (·.answer) =
      some (.block [0, 0, 0, 0, 0, 0, 0, 0, 0, 0, 0, 0, 0x0D, 0x01, 0xC0, 0x40, 0x9C, 0x28, 0xA0, 0, 0]) := by decide

/-- V14.3: the registers of the block, no call, pending kept. -/
theorem test_load :
    (send State.reset (.call 6 (.bytes block143))).map (·.block) = some block143 ∧
    (send State.reset (.call 6 (.bytes block143))).map timer = some (true, false, 0x1234, 0x12345678, 0) ∧
    (send State.reset (.call 6 (.bytes block143))).map calls = some [] := by decide

/-- V14.6: a mode, a latch or a flag that no block of `saveState` holds. -/
theorem test_load_refuses :
    refusal? (exec (.load (resetBlock.set 0 0x04)) State.reset) = some .malformedBlock ∧
      refusal? (exec (.load (resetBlock.set 12 0x10)) State.reset) = some .malformedBlock ∧
      refusal? (exec (.load (resetBlock.set 13 0x02)) State.reset) = some .malformedBlock := by decide

/-- V17: what breaks the caller's obligations. -/
theorem test_obligations :
    refusal? (exec .save { State.reset with resetDone := false }) = some .beforeReset ∧
      refusal? (exec (.sel 99 0) a16) = some (.timeBackwards 99 100) ∧
      refusal? (exec (.run 99) a16) = some (.timeBackwards 99 100) ∧
      refusal? (exec (.endframe 99) a16) = some (.timeBackwards 99 100) ∧
      refusal? (exec (.irqctl 2147450000 1) State.reset) = some (.deadlineOverflow 2147515535) := by decide

/-! ### Witnesses: a state and operands that meet every hypothesis of a statement, one part for each clause -/

theorem witness_EveryKeyLiesInExactlyTheDecodedRow : decodeCall 1 (.time 5) = .ok (.run 5) := rfl

theorem witness_DecodeOfEncodeIsTheInstruction :
    defaultConfig.wf = true ∧ (Instr.irqlo (-3) 0xFF).wf = true ∧ (Instr.irqlo (-3) 0xFF).encoding.admits 0xE = true ∧
      (Instr.load resetBlock).wf = true ∧ (Instr.load resetBlock).encoding.admits 0x0 = true := by decide

theorem witness_EncodeOfDecodeIsTheRequest :
    defaultConfig.wf = true ∧ decode defaultConfig 0x3 (.write 5 0xBFFF 0xAB) = .ok (.chr3 5 0xAB) ∧
      decode defaultConfig 0x3 (.call 2 (.time 9)) = .ok (.endframe 9) := ⟨by decide, rfl, rfl⟩

theorem witness_DataWritesAreRoutedByTheLatch :
    region defaultConfig 0xA000 = .data ∧ region defaultConfig 0xBFFF = .data := by decide

theorem witness_StepRunsTheDecodedInstruction :
    (∃ s r rest i, State.inbox s = r :: rest ∧ decode s.cfg s.command r = .ok i) ∧
      (∃ s r rest e, State.inbox s = r :: rest ∧ decode s.cfg s.command r = .error e) ∧ State.reset.inbox = [] :=
  ⟨⟨{ State.reset with inbox := [.write 0 0x8000 9] }, _, _, .sel 0 9, rfl, rfl⟩,
    ⟨{ State.reset with inbox := [.call 7 .none] }, _, _, .noSuchCall 7, rfl, rfl⟩, rfl⟩

theorem witness_TheDeliveredTableWordIsTheNextOperation :
    State.reset.cfg.wf = true ∧ decodeTableWord 16 0b01_1111_10011100 = some (.irqhi 0 0b10011100) ∧
      decodeTableWord 8 0b101 = some .save := by decide

/-- The obligations, met at the boundary `t = tLast`: the hypothesis of SelLoadsTheLatch, SoundWritesAreAcceptedAndIgnored,
OutsideWritesChangeNothing, GraphicsBankWritesStoreAndProgramTheWindow, ProgramBankWritesStoreAndProgramTheWindow and
MirWriteStoresTheModeAndSetsTheArrangement. -/
theorem witness_accepts : State.reset.accepts 0 ∧ a16.accepts 100 ∧ busy.accepts 205 := by decide

theorem witness_SelLoadsTheLatch :
    State.reset.accepts 0 ∧ region defaultConfig 0x8000 = .select ∧ region defaultConfig 0x9FFF = .select := by decide

theorem witness_SoundWritesAreAcceptedAndIgnored :
    State.reset.accepts 7 ∧ region defaultConfig 0xC000 = .sound ∧ region defaultConfig 0xFFFF = .sound := by decide

theorem witness_OutsideWritesChangeNothing :
    State.reset.accepts 3 ∧ region defaultConfig 0x0000 = .outside ∧ region defaultConfig 0x7FFF = .outside := by decide

theorem witness_GraphicsBankWritesStoreAndProgramTheWindow : busy.accepts 205 := by decide

theorem witness_ProgramBankWritesStoreAndProgramTheWindow : busy.accepts 205 := by decide

theorem witness_MirWriteStoresTheModeAndSetsTheArrangement : busy.accepts 205 := by decide

theorem witness_IgnoredBitsHaveNoEffect :
    (0x1C : Byte).extractLsb' 0 4 = (0xFC : Byte).extractLsb' 0 4 ∧
      (0x05 : Byte).extractLsb' 0 2 = (0xFD : Byte).extractLsb' 0 2 ∧ (0x01 : Byte)[0] = (0xFF : Byte)[0] ∧
      (∃ s', exec (.wram 0 0x40) State.reset = .next s') ∧ (∃ s', exec (.wram 0 0x85) State.reset = .next s') ∧
      ((0x40 : Byte)[6] = true ∧ (0x7F : Byte)[6] = true ∧ (0x40 : Byte)[7] = (0x7F : Byte)[7]) ∧
      ((0x05 : Byte)[6] = false ∧ (0x85 : Byte)[6] = false ∧
        (0x05 : Byte).extractLsb' 0 6 = (0x85 : Byte).extractLsb' 0 6) :=
  ⟨by decide, by decide, by decide, ⟨_, rfl⟩, ⟨_, rfl⟩, by decide, by decide⟩

theorem witness_WramWriteStoresTheByteAndMakesTheCallOfItsMode :
    busy.accepts 205 ∧ (0x40 : Byte)[6] = true ∧ (0x3F : Byte)[6] = false := by decide

theorem witness_BankWritesDoNotDependOnTimeAndLeaveTheTimer :
    (∃ s', exec (.wram 100 0xC0) a16 = .next s') ∧ ∃ s', exec (.wram 116 0xC0) a16 = .next s' := ⟨⟨_, rfl⟩, _, rfl⟩

theorem witness_RepeatedBankWritesAreIdempotent :
    (100 : Int) ≤ 101 ∧ ∃ s', exec (.mir 100 2) a16 = .next s' := ⟨by decide, _, rfl⟩

theorem witness_RunAdvancesTheTimer :
    State.reset.accepts 0 ∧ State.reset.irqEnabled = false ∧
      a16.accepts 116 ∧ a16.irqEnabled = true ∧ a16.nextTime.toInt ≤ 116 ∧
      a16.accepts 115 ∧ 115 < a16.nextTime.toInt := by decide

theorem witness_RunningTwiceIsRunningToTheLaterTime :
    (115 : Int) ≤ 116 ∧ ∃ s', exec (.run 115) a16 = .next s' := ⟨by decide, _, rfl⟩

/-- The last time at which a countdown of 0xFFFF can be armed, and the first at which it cannot. -/
theorem witness_IrqControlWriteEnablesOrDisables :
    State.reset.accepts 2147418112 ∧ (0xFE : Byte)[0] = false ∧ (0x01 : Byte)[0] = true ∧
      ((2147418112 : Int) + (advance 2147418112 { State.reset with tLast := 2147418112 }).irqCount.toNat = 2 ^ 31 - 1) ∧
      State.reset.accepts 2147418113 ∧
      ¬ ((2147418113 : Int) + (advance 2147418113 { State.reset with tLast := 2147418113 }).irqCount.toNat ≤
        2 ^ 31 - 1) := by decide

theorem witness_CountdownByteWritesReplaceOneByteAndRearm :
    a16.accepts 100 ∧ (advance 100 a16).irqEnabled = true ∧
      (100 + (((advance 100 a16).irqCount.extractLsb' 8 8 ++ (0x20 : Byte)).toNat : Int) ≤ 2 ^ 31 - 1) ∧
      a16.accepts 116 ∧ (advance 116 a16).irqEnabled = false ∧
      State.accepts { a16 with nextTime := 0x7FFFFFFF } 0x7FFFFFFE ∧
      (advance 0x7FFFFFFE { a16 with nextTime := 0x7FFFFFFF }).irqEnabled = true ∧
      ¬ (0x7FFFFFFE + (((advance 0x7FFFFFFE { a16 with nextTime := 0x7FFFFFFF }).irqCount.extractLsb' 8 8 ++
        (0x02 : Byte)).toNat : Int) ≤ 2 ^ 31 - 1) := by decide

theorem witness_EndFrameAdvancesAndRebases :
    State.reset.accepts 29780 ∧ 0 ≤ State.reset.tLast ∧ State.reset.irqEnabled = false ∧
      State.accepts (armed 0x7454) 29780 ∧ (armed 0x7454).irqEnabled = true ∧ (armed 0x7454).nextTime.toInt ≤ 29780 ∧
      State.accepts (armed 0x7455) 29780 ∧ 29780 < (armed 0x7455).nextTime.toInt := by decide

theorem witness_NextIrqAnswersPresentDeadlineOrNone :
    busy.resetDone = true ∧ busy.irqPending = true ∧ a16.resetDone = true ∧ a16.irqPending = false ∧
      a16.irqEnabled = true ∧ State.reset.irqPending = false ∧ State.reset.irqEnabled = false := by decide

theorem witness_TheAnswerOfNextIrqTellsTheLine :
    State.reset.nextIrq 0 = none ∧ a16.nextIrq 100 = some 116 ∧ busy.nextIrq 205 = some 205 := by decide

/-- A stopped timer, a running one at the last time before its deadline, one at its deadline, and the two byte writes. -/
theorem witness_ArmedTimerExpiresAfterExactlyItsCountdown :
    (0x01 : Byte)[0] = true ∧ 0xFFFF = (advance 100 State.reset).irqCount ∧
      (∃ s', exec (.irqctl 100 0x01) State.reset = .next s') ∧
      0x0001 = (advance 115 a16).irqCount ∧ (∃ s', exec (.irqctl 115 0x01) a16 = .next s') ∧
      0xFFFF = (advance 116 a16).irqCount ∧ (∃ s', exec (.irqctl 116 0x01) a16 = .next s') ∧
      (advance 100 a16).irqEnabled = true ∧
      (0x0000 : BitVec 16) = (advance 100 a16).irqCount.extractLsb' 8 8 ++ (0x00 : Byte) ∧
      (∃ s', exec (.irqlo 100 0x00) a16 = .next s') ∧
      (0x0210 : BitVec 16) = (0x02 : Byte) ++ (advance 100 a16).irqCount.extractLsb' 0 8 ∧
      ∃ s', exec (.irqhi 100 0x02) a16 = .next s' :=
  ⟨by decide, by decide, ⟨_, rfl⟩, by decide, ⟨_, rfl⟩, by decide, ⟨_, rfl⟩, by decide, by decide, ⟨_, rfl⟩, by decide,
    _, rfl⟩

theorem witness_WritesThatChangeNothingLeaveTheDeadline :
    (armed 0x1234).irqEnabled = true ∧ 52 < (armed 0x1234).nextTime.toInt ∧ (armed 0x1234).timerBound = true ∧
      (0x01 : Byte)[0] = true ∧ (∃ s', exec (.irqctl 52 0x01) (armed 0x1234) = .next s') ∧
      0x00 = (BitVec.ofInt 16 ((armed 0x1234).nextTime.toInt - 52)).extractLsb' 0 8 ∧
      (∃ s', exec (.irqlo 52 0x00) (armed 0x1234) = .next s') ∧
      0x12 = (BitVec.ofInt 16 ((armed 0x1234).nextTime.toInt - 52)).extractLsb' 8 8 ∧
      ∃ s', exec (.irqhi 52 0x12) (armed 0x1234) = .next s' :=
  ⟨by decide, by decide, by decide, by decide, ⟨_, rfl⟩, by decide, ⟨_, rfl⟩, by decide, _, rfl⟩

theorem witness_EveryStepButLoadKeepsTheTimerBound :
    (armed 0xFFFF).timerBound = true ∧
      (∀ bs, [Request.call 2 (.time 29780)].head? ≠ some (.call 6 (.bytes bs))) ∧
      ∃ s', step { armed 0xFFFF with inbox := [.call 2 (.time 29780)] } = .next s' :=
  ⟨by decide, by simp, _, rfl⟩

theorem witness_TheLazyTimerCountsLikeACycleByCycleCounter :
    (armed 0xFFFF).timerBound = true ∧ (armed 0xFFFF).tLast ≤ 0 := by decide

theorem witness_OperationsActOnTheCycleByCycleCounter :
    (∃ s', exec (.irqctl 116 0x01) a16 = .next s') ∧ (∃ s', exec (.irqlo 100 0x00) a16 = .next s') ∧
      (∃ s', exec (.irqhi 116 0x01) a16 = .next s') ∧ (∃ s', exec (.run 116) a16 = .next s') ∧
      (∃ s', exec (.endframe 110) a16 = .next s') ∧ (∃ s', exec (.snd 116 0x00) a16 = .next s') ∧
      (∃ s', exec (.apply) a16 = .next s') ∧ (∃ s', exec .reset a16 = .next s') ∧
      (∃ s', exec (.load resetBlock) a16 = .next s') ∧ byteAt resetBlock 13 = 0 ∧
      (∃ s', exec (.load block143) a16 = .next s') ∧ byteAt block143 13 = 1 ∧
      (getLe32 block143 17).toInt ≤ 305419896 ∧ 305419895 < (getLe32 block143 17).toInt :=
  ⟨⟨_, rfl⟩, ⟨_, rfl⟩, ⟨_, rfl⟩, ⟨_, rfl⟩, ⟨_, rfl⟩, ⟨_, rfl⟩, ⟨_, rfl⟩, ⟨_, rfl⟩, ⟨_, rfl⟩, by decide, ⟨_, rfl⟩,
    by decide, by decide, by decide⟩

theorem witness_OnlyExpirySetsAndOnlyDisablingClearsPending :
    (∃ s', exec (.irqctl 205 0x00) busy = .next s' ∧ busy.irqPending = true ∧ s'.irqPending = false) ∧
      ∃ s', exec (.run 116) a16 = .next s' ∧ a16.irqPending = false ∧ s'.irqPending = true :=
  ⟨⟨_, rfl, rfl, rfl⟩, _, rfl, rfl, rfl⟩

theorem witness_WhatSetsAndClearsTheEnable :
    (∃ s', exec (.irqctl 0 0x01) State.reset = .next s' ∧ State.reset.irqEnabled = false ∧ s'.irqEnabled = true) ∧
      ∃ s', exec (.irqlo 116 0x20) a16 = .next s' ∧ a16.irqEnabled = true ∧ s'.irqEnabled = false :=
  ⟨⟨_, rfl, rfl, rfl⟩, _, rfl, rfl, rfl⟩

theorem witness_ADisabledCountdownHolds :
    State.reset.irqEnabled = false ∧ ∃ s', exec (.run 5000) State.reset = .next s' := ⟨rfl, _, rfl⟩

theorem witness_EachRegisterHasOnlyItsOwnWriters :
    (∃ s', exec (.chr3 0 0x12) State.reset = .next s') ∧ Instr.chr3 0 0x12 ≠ .reset ∧
      ∀ b, Instr.chr3 0 0x12 ≠ .load b := ⟨⟨_, rfl⟩, by simp, by simp⟩

theorem witness_HowManyCallsEachOperationMakes :
    (∃ s', exec .reset busy = .next s') ∧ (∃ s', exec .apply busy = .next s') ∧
      (∃ s', exec (.prg2 205 7) busy = .next s') ∧ ∃ s', exec (.sel 205 7) busy = .next s' :=
  ⟨⟨_, rfl⟩, ⟨_, rfl⟩, ⟨_, rfl⟩, _, rfl⟩

theorem witness_TheTimeBookkeepingOfEveryOperation :
    (∃ s', exec (.out 3 0x55) State.reset = .next s') ∧ (∃ s', exec (.endframe 29780) State.reset = .next s') ∧
      ∃ s', exec (.load resetBlock) busy = .next s' := ⟨⟨_, rfl⟩, ⟨_, rfl⟩, _, rfl⟩

theorem witness_NoWriteIsRejectedOrTraps : a16.accepts 100 ∧ clockFits 100 ∧ State.reset.accepts 2147418112 ∧
    clockFits 2147418112 := by decide

theorem witness_BrokenObligationsAreRefused :
    State.resetDone { busy with resetDone := false } = false ∧ Instr.save ≠ .reset ∧
      (Instr.wram 204 0x80).encoding = .write .data (some 8) 204 0x80 ∧ busy.resetDone = true ∧
      (204 : Int) < busy.tLast := by decide

theorem witness_TheResetStateIsWhatResetLeaves :
    State.cfg { busy with trace := [] } = defaultConfig ∧ State.trace { busy with trace := [] } = [] ∧
      State.inbox { busy with trace := [] } = [] := by decide

theorem witness_ApplyMakesThirteenCallsInOrder : busy.resetDone = true := by decide

theorem witness_EveryStepButLoadKeepsTheBusCurrent :
    State.reset.cfg.wf = true ∧ State.reset.busCurrent = true ∧
      (∀ bs, [Request.write 0 0xA000 7].head? ≠ some (.call 6 (.bytes bs))) ∧
      (∃ s', step { State.reset with inbox := [.write 0 0xA000 7] } = .next s') ∧
      busy.cfg.wf = true ∧ busy.busCurrent = false ∧ ∃ s', exec .apply busy = .next s' :=
  ⟨by decide, by decide +kernel, by simp, ⟨_, rfl⟩, by decide, by decide +kernel, _, rfl⟩

theorem witness_ApplyLeavesACurrentBusUnchanged :
    State.reset.resetDone = true ∧ State.reset.busCurrent = true := by decide +kernel

theorem witness_SaveReturnsTheBlockOfTheRegisters : busy.resetDone = true := by decide

theorem witness_LoadInstallsTheBlockOrRefusesIt :
    busy.resetDone = true ∧ (0x03 : Byte).toNat ≤ 3 ∧ (0x0F : Byte).toNat ≤ 15 ∧ (0x01 : Byte).toNat ≤ 1 ∧
      (List.replicate 20 (0 : Byte)).length ≠ 21 ∧ 3 < (byteAt (resetBlock.set 0 4) 0).toNat ∧
      15 < (byteAt (resetBlock.set 12 0x10) 12).toNat ∧ 1 < (byteAt (resetBlock.set 13 2) 13).toNat := by decide

theorem witness_SaveThenLoadOnAFreshInstanceReproducesTheChip :
    State.reset.inv = true ∧ State.reset.busCurrent = true ∧
      State.cfg { busy with trace := [], resetDone := false } = State.reset.cfg ∧
      State.trace { busy with trace := [], resetDone := false } = [] ∧ State.reset.wramControl[6] = true ∧
      ∃ s', exec (.wram 0 0x05) State.reset = .next s' ∧ s'.inv = true ∧ s'.busCurrent = true ∧
        s'.wramControl[6] = false :=
  ⟨by decide, by decide +kernel, by decide, by decide, by decide, _, rfl, by decide +kernel, by decide +kernel, by decide⟩

theorem witness_TheEndianCodecReadsBackWhatItStores :
    17 + 4 ≤ resetBlock.length ∧ 19 + 2 ≤ resetBlock.length := by decide

theorem witness_EveryStepKeepsTheInvariant :
    State.inv { State.reset with inbox := [.call 0 .none] } = true ∧
      ∃ s', step { State.reset with inbox := [.call 0 .none] } = .next s' := ⟨by decide, _, rfl⟩

/-- After reset, a write of 0x40 and one of 0x05 to WRAM: extra RAM off, then bank 5 in its window. -/
def banked : State :=
  { State.reset with
    wramControl := 0x05
    trace := State.reset.trace ++ [.enableExtraRam false, .setProgramBank 0x6000 .kib8 (.idx 5)] }

/-- A bus that shows the bank in the command-0x8 window exactly while extra RAM is off. -/
def ramFirst (v : BusView) : Bool := v.extraRam == some false

/-- V4's sequence corner and U4: with extra RAM on, what the CPU sees in the command-0x8 window is the bus's rule. -/
theorem test_cpu_read_wram_window :
    banked.bus.cpuRead defaultConfig ramFirst 0x6000 = some (.idx 5, 0) ∧
      BusView.cpuRead defaultConfig ramFirst { banked.bus with extraRam := some true } 0x6000 = none ∧
      BusView.cpuRead defaultConfig ramFirst { banked.bus with extraRam := some true } 0xE001 = some (.last, 1) := by
  decide +kernel

theorem witness_TheBusShowsTheBanksTheMultiplexerChooses :
    banked.cfg = defaultConfig ∧ banked.inv = true ∧ banked.busCurrent = true ∧
      banked.programMux 0xFFFF = some .last ∧ banked.programMux 0x8000 = some (.idx 0) ∧
      banked.programMux 0x6000 = some (.idx 5) ∧ banked.programMux 0x7FFF = some (.idx 5) ∧
      ramFirst banked.bus = true := by decide +kernel

theorem witness_MirroringDecoderShowsTheArrangementOfTheMode : ∃ s', exec (.mir 0 3) State.reset = .next s' := ⟨_, rfl⟩

/-- A busy timer with the safe sequence waiting. -/
def safe : State :=
  { busy with inbox := pseudoIrqOff busy.cfg 205 ++ pseudoSetCount busy.cfg 205 40000 ++ pseudoIrqOn busy.cfg 205 }

theorem witness_TheSafeSequenceArmsExactlyTheCount :
    safe.cfg.wf = true ∧ safe.accepts 205 ∧ clockFits 205 ∧
      safe.inbox = pseudoIrqOff safe.cfg 205 ++ pseudoSetCount safe.cfg 205 40000 ++ pseudoIrqOn safe.cfg 205 := by
  decide

/-- R62, U3: the last index in range and the first past the end, on a bus that shows bank 2 past the end. -/
theorem test_bank_number :
    bankNumber (fun _ _ => 2) 6 (.idx 5) = 5 ∧ bankNumber (fun _ _ => 2) 6 (.idx 6) = 2 ∧
      bankNumber (fun _ _ => 2) 6 .last = 5 := by decide

/-- Six banks, so index 5 is the last in range; and five banks, so index 5 is the first past the end. -/
theorem witness_AReadReturnsTheByteAtTheBankAndTheOffset :
    (banked.cfg = defaultConfig ∧ banked.inv = true ∧ banked.busCurrent = true ∧ ramFirst banked.bus = true ∧
      banked.programMux 0x7FFF = some (.idx 5) ∧ banked.programMux 0xE000 = some .last ∧
      banked.graphicsMux 0x1FFF = .idx 0) ∧
    (∀ banks, (List.replicate (banks * 0x2000) (0 : Byte)).length = banks * 0x2000 ∧
      (List.replicate (banks * 0x400) (0 : Byte)).length = banks * 0x400) ∧
    ((5 : Byte).toNat < 6 ∧ 5 ≤ (5 : Byte).toNat ∧ (0 : Byte).toNat < 1 ∧ 0 ≤ (0 : Byte).toNat) :=
  ⟨by decide +kernel, fun _ => ⟨List.length_replicate .., List.length_replicate ..⟩, by decide⟩

end Sys2Proof.Tests
end

section
/-! PROOFS. The state of the chip (10_state.md): what each operation sets, clears and leaves alone, the timer's bound, and
the state after reset. `Effect` says once what an operation that answers next can do; the statements over all operations
are case analyses of it. -/

namespace Sys2Proof.Machine

/-! ### The timer, field by field -/

/-- Moving the time bookkeeping and advancing do not disturb each other. -/
@[simp] theorem advance_at (e t : Int) (s : State) : advance e (s.at t) = (advance e s).at t := by
  obtain ⟨h, ha⟩ | ⟨h, hd, ha⟩ | ⟨h, hd, ha⟩ := advance_cases e s
  · rw [ha]; exact advance_disabled h
  · rw [ha]; exact advance_expired (s := s.at t) h hd
  · rw [ha]; exact advance_running (s := s.at t) h hd

/-- An advance keeps the enable exactly while the deadline lies ahead (R158). -/
theorem advance_irqEnabled (e : Int) (s : State) :
    (advance e s).irqEnabled = (s.irqEnabled && decide (e < s.deadline)) := by
  obtain ⟨h, ha⟩ | ⟨h, hd, ha⟩ | ⟨h, hd, ha⟩ := advance_cases e s
  · simp [ha, h]
  · simp [ha, h, hd]
  · simp [ha, h, hd]

/-- What an advance to `e` leaves pending is the level of the interrupt line at `e` (R158, R163). -/
theorem advance_irqPending (e : Int) (s : State) : (advance e s).irqPending = s.irqLine e := by
  obtain ⟨h, ha⟩ | ⟨h, hd, ha⟩ | ⟨h, hd, ha⟩ := advance_cases e s
  · simp [ha, h, State.irqLine]
  · simp [ha, h, hd, State.irqLine]
  · simp [ha, h, hd, State.irqLine]

/-- An advance that sets pending has met the deadline of an enabled timer. -/
theorem expired_of_advance_sets_pending {e : Int} {s : State} (h : s.irqPending = false)
    (h' : (advance e s).irqPending = true) : s.irqEnabled = true ∧ s.deadline ≤ e := by
  simpa [advance_irqPending, State.irqLine, h] using h'

/-- An advance never clears pending. -/
theorem advance_keeps_pending {e : Int} {s : State} (h : s.irqPending = true) : (advance e s).irqPending = true := by
  simp [advance_irqPending, State.irqLine, h]

/-- An advance that clears the enable has met the deadline. -/
theorem expired_of_advance_clears_enable {e : Int} {s : State} (h : s.irqEnabled = true)
    (h' : (advance e s).irqEnabled = false) : s.deadline ≤ e := by
  simpa [advance_irqEnabled, h] using h'

/-- An advance never sets the enable. -/
theorem irqEnabled_of_advance {e : Int} {s : State} (h : (advance e s).irqEnabled = true) : s.irqEnabled = true := by
  rw [advance_irqEnabled, Bool.and_eq_true] at h
  exact h.1

/-- A deadline stored by `storeDeadline` is read back as the integer given. -/
theorem storeDeadline_leaves {x : Int} {s s' : State} (h : storeDeadline x s = .next s') :
    ∃ d : BitVec 32, d.toInt = x ∧ s' = s.setNextTime d := by
  obtain ⟨hf, rfl⟩ := storeDeadline_next.1 h
  exact ⟨_, toInt_ofInt_of_fits hf, rfl⟩

/-- `d` is the deadline of a timer of which `x` is the new one while enabled, and which keeps its own while disabled. -/
def NewDeadline (s : State) (x : Int) (d : BitVec 32) : Prop :=
  if s.irqEnabled then d.toInt = x else d = s.nextTime

theorem NewDeadline.toInt {s : State} {x : Int} {d : BitVec 32} (h : NewDeadline s x d) (he : s.irqEnabled = true) :
    d.toInt = x := by
  simpa [NewDeadline, he] using h

/-- The end of a countdown write stores at most a deadline (R154, R155). -/
theorem rearmIfEnabled_leaves {t : Int} {s s' : State} (h : rearmIfEnabled t s = .next s') :
    ∃ d, NewDeadline s (t + (s.irqCount.toNat : Int)) d ∧ s' = s.setNextTime d := by
  obtain ⟨he, h⟩ | ⟨he, rfl⟩ := rearmIfEnabled_next.1 h
  · obtain ⟨d, hd, rfl⟩ := storeDeadline_leaves h
    exact ⟨d, by simp [NewDeadline, he, hd], rfl⟩
  · exact ⟨s'.nextTime, by simp [NewDeadline, he], rfl⟩

/-- The rebasing of `endFrame` stores at most a deadline (R160). -/
theorem rebase_leaves {e : Int} {s s' : State} (h : rebase e s = .next s') :
    ∃ d, NewDeadline s (s.deadline - e) d ∧ s' = s.setNextTime d := by
  obtain ⟨he, -, h⟩ | ⟨he, rfl⟩ := rebase_next.1 h
  · obtain ⟨d, hd, rfl⟩ := storeDeadline_leaves h
    exact ⟨d, by simp [NewDeadline, he, hd], rfl⟩
  · exact ⟨s'.nextTime, by simp [NewDeadline, he], rfl⟩

/-! ### What an answered operation leaves -/

/-- What the writes that do not concern the timer do, by mnemonic: each stores its one register and applies it; SND and
OUT store none. -/
inductive Stores (v : Byte) (s : State) : String → State → Prop where
  | sel : Stores v s "SEL" (s.setCommand (selLatch v))
  | chr (j : Fin 8) : Stores v s ("CHR" ++ toString j.val) (applyReg (j.castLE (by decide)) (s.setChr j v))
  | prg (k : Fin 3) : Stores v s ("PRG" ++ toString k.val) (applyReg ⟨9 + k.val, by omega⟩ (s.setPrg k v))
  | wram : Stores v s "WRAM" (applyReg 8 (s.setWram v))
  | mir : Stores v s "MIR" (applyReg 12 (s.setMirroring (mirMode v)))
  | snd : Stores v s "SND" s
  | out : Stores v s "OUT" s

/-- Everything an operation that answers next can do, with the obligations it was under. -/
inductive Effect (s : State) : Instr → State → Prop where
  /-- A write that does not concern the timer. -/
  | store {i : Instr} {r : Region} {l : Option Latch} {t : Int} {v : Byte} {s' : State}
      (he : i.encoding = .write r l t v) (hr : s.resetDone = true) (ht : s.tLast ≤ t)
      (hs : Stores v (s.at t) i.mnemonic s') : Effect s i s'
  /-- IRQCTL with bit 0 set: the timer runs to the write's time plus the countdown (R152, R153). -/
  | enable {t : Int} {v : Byte} (d : BitVec 32) (hr : s.resetDone = true) (ht : s.tLast ≤ t) (hv : irqBit v = true)
      (hd : d.toInt = t + ((advance t s).irqCount.toNat : Int)) :
      Effect s (.irqctl t v) ((((advance t s).at t).setEnabled true).setNextTime d)
  /-- IRQCTL with bit 0 clear (R153). -/
  | disable {t : Int} {v : Byte} (hr : s.resetDone = true) (ht : s.tLast ≤ t) (hv : irqBit v = false) :
      Effect s (.irqctl t v) ((((advance t s).at t).setEnabled false).setPending false)
  /-- IRQLO or IRQHI: the countdown is `c`, and a timer still enabled is armed with it (R154, R155). -/
  | count {i : Instr} {t : Int} {v : Byte} (c : BitVec 16) (d : BitVec 32) (hr : s.resetDone = true) (ht : s.tLast ≤ t)
      (hi : (i = .irqlo t v ∧ c = withLow (advance t s).irqCount v) ∨
        (i = .irqhi t v ∧ c = withHigh (advance t s).irqCount v))
      (hd : NewDeadline (advance t s) (t + (c.toNat : Int)) d) :
      Effect s i ((((advance t s).at t).setCount c).setNextTime d)
  /-- RUN (R159). -/
  | run {t : Int} (hr : s.resetDone = true) (ht : s.tLast ≤ t) : Effect s (.run t) ((advance t s).at t)
  /-- ENDFRAME: a deadline still running moves to the new frame (R160). -/
  | endframe {t : Int} (d : BitVec 32) (hr : s.resetDone = true) (ht : s.tLast ≤ t)
      (hd : NewDeadline (advance t s) (s.deadline - t) d) :
      Effect s (.endframe t) ((((advance t s).at t).setTLast 0).setNextTime d)
  /-- RESET (R230). -/
  | reset : Effect s .reset (applyMapping s.resetRegisters.pinTop)
  /-- APPLY (R180). -/
  | apply (hr : s.resetDone = true) : Effect s .apply (applyMapping (s.setAnswer .nothing))
  /-- NEXTIRQ (R162). -/
  | nextirq {x : Int} (hr : s.resetDone = true) : Effect s (.nextirq x) (s.setAnswer (.time (s.nextIrq x)))
  /-- SAVE (R184). -/
  | save (hr : s.resetDone = true) : Effect s .save (s.setAnswer (.block s.block))
  /-- LOAD of a well-formed block (R185). -/
  | load {b : List Byte} (hr : s.resetDone = true) (hb : blockOk b = true) :
      Effect s (.load b) ((s.setAnswer .nothing).loadBlock b)

/-- An operation that answers next leaves what `Effect` says of it. -/
theorem exec_effect {i : Instr} {s s' : State} (h : exec i s = .next s') : Effect s i s' := by
  cases i with
  | sel t v => obtain ⟨hr, ht, rfl⟩ := execSel_next.1 h; exact .store rfl hr ht .sel
  | chr0 t v => obtain ⟨hr, ht, rfl⟩ := execChr0_next.1 h; exact .store rfl hr ht (.chr 0)
  | chr1 t v => obtain ⟨hr, ht, rfl⟩ := execChr1_next.1 h; exact .store rfl hr ht (.chr 1)
  | chr2 t v => obtain ⟨hr, ht, rfl⟩ := execChr2_next.1 h; exact .store rfl hr ht (.chr 2)
  | chr3 t v => obtain ⟨hr, ht, rfl⟩ := execChr3_next.1 h; exact .store rfl hr ht (.chr 3)
  | chr4 t v => obtain ⟨hr, ht, rfl⟩ := execChr4_next.1 h; exact .store rfl hr ht (.chr 4)
  | chr5 t v => obtain ⟨hr, ht, rfl⟩ := execChr5_next.1 h; exact .store rfl hr ht (.chr 5)
  | chr6 t v => obtain ⟨hr, ht, rfl⟩ := execChr6_next.1 h; exact .store rfl hr ht (.chr 6)
  | chr7 t v => obtain ⟨hr, ht, rfl⟩ := execChr7_next.1 h; exact .store rfl hr ht (.chr 7)
  | wram t v => obtain ⟨hr, ht, rfl⟩ := execWram_next.1 h; exact .store rfl hr ht .wram
  | prg0 t v => obtain ⟨hr, ht, rfl⟩ := execPrg0_next.1 h; exact .store rfl hr ht (.prg 0)
  | prg1 t v => obtain ⟨hr, ht, rfl⟩ := execPrg1_next.1 h; exact .store rfl hr ht (.prg 1)
  | prg2 t v => obtain ⟨hr, ht, rfl⟩ := execPrg2_next.1 h; exact .store rfl hr ht (.prg 2)
  | mir t v => obtain ⟨hr, ht, rfl⟩ := execMir_next.1 h; exact .store rfl hr ht .mir
  | snd t v => obtain ⟨hr, ht, rfl⟩ := execSnd_next.1 h; exact .store rfl hr ht .snd
  | out t v => obtain ⟨hr, ht, rfl⟩ := execOut_next.1 h; exact .store rfl hr ht .out
  | irqctl t v =>
    obtain ⟨hr, ht, ⟨hv, ha⟩ | ⟨hv, rfl⟩⟩ := execIrqctl_next.1 h
    · obtain ⟨d, hd, rfl⟩ := storeDeadline_leaves ha
      rw [advance_at] at hd ⊢
      exact .enable d hr ht hv hd
    · rw [advance_at]
      exact .disable hr ht hv
  | irqlo t v =>
    obtain ⟨hr, ht, ha⟩ := execIrqlo_next.1 h
    obtain ⟨d, hd, rfl⟩ := rearmIfEnabled_leaves ha
    rw [advance_at] at hd ⊢
    exact .count _ d hr ht (.inl ⟨rfl, rfl⟩) hd
  | irqhi t v =>
    obtain ⟨hr, ht, ha⟩ := execIrqhi_next.1 h
    obtain ⟨d, hd, rfl⟩ := rearmIfEnabled_leaves ha
    rw [advance_at] at hd ⊢
    exact .count _ d hr ht (.inr ⟨rfl, rfl⟩) hd
  | run t => obtain ⟨hr, ht, rfl⟩ := execRun_next.1 h; rw [advance_at]; exact .run hr ht
  | endframe t =>
    obtain ⟨hr, ht, ha⟩ := execEndframe_next.1 h
    obtain ⟨d, hd, rfl⟩ := rebase_leaves ha
    rw [advance_at] at hd ⊢
    exact .endframe d hr ht (by rw [← advance_deadline t s]; exact hd)
  | reset => rw [execReset_next.1 h]; exact .reset
  | apply => obtain ⟨hr, rfl⟩ := execApply_next.1 h; exact .apply hr
  | nextirq x => obtain ⟨hr, rfl⟩ := execNextirq_next.1 h; exact .nextirq hr
  | save => obtain ⟨hr, rfl⟩ := execSave_next.1 h; exact .save hr
  | load b => obtain ⟨hr, hb, rfl⟩ := execLoad_next.1 h; exact .load hr hb

/-! ### What a store leaves alone -/

section
variable {v : Byte} {s s' : State} {m : String}

theorem Stores.irqEnabled (h : Stores v s m s') : s'.irqEnabled = s.irqEnabled := by cases h <;> rfl
theorem Stores.irqCount (h : Stores v s m s') : s'.irqCount = s.irqCount := by cases h <;> rfl
theorem Stores.irqPending (h : Stores v s m s') : s'.irqPending = s.irqPending := by cases h <;> rfl
theorem Stores.nextTime (h : Stores v s m s') : s'.nextTime = s.nextTime := by cases h <;> rfl
theorem Stores.tLast (h : Stores v s m s') : s'.tLast = s.tLast := by cases h <;> rfl
theorem Stores.resetDone (h : Stores v s m s') : s'.resetDone = s.resetDone := by cases h <;> rfl
theorem Stores.inbox (h : Stores v s m s') : s'.inbox = s.inbox := by cases h <;> rfl
theorem Stores.cfg (h : Stores v s m s') : s'.cfg = s.cfg := by cases h <;> rfl

/-- A graphics bank changes only under its own CHR write. -/
theorem Stores.chrBanks (h : Stores v s m s') (j : Fin 8) :
    s'.chrBanks[j] = s.chrBanks[j] ∨ m = "CHR" ++ toString j.val := by
  cases h with
  | chr i =>
    by_cases hij : i = j
    · exact .inr (by rw [hij])
    · exact .inl (Vector.getElem_set_ne i.isLt j.isLt (Fin.val_ne_of_ne hij))
  | _ => exact .inl rfl

/-- A program bank changes only under its own PRG write. -/
theorem Stores.prgBanks (h : Stores v s m s') (k : Fin 3) :
    s'.prgBanks[k] = s.prgBanks[k] ∨ m = "PRG" ++ toString k.val := by
  cases h with
  | prg i =>
    by_cases hik : i = k
    · exact .inr (by rw [hik])
    · exact .inl (Vector.getElem_set_ne i.isLt k.isLt (Fin.val_ne_of_ne hik))
  | _ => exact .inl rfl

theorem Stores.wramControl (h : Stores v s m s') : s'.wramControl = s.wramControl ∨ m = "WRAM" := by
  cases h with
  | wram => exact .inr rfl
  | _ => exact .inl rfl

theorem Stores.mirroring (h : Stores v s m s') : s'.mirroring = s.mirroring ∨ m = "MIR" := by
  cases h with
  | mir => exact .inr rfl
  | _ => exact .inl rfl

theorem Stores.command (h : Stores v s m s') : s'.command = s.command ∨ m = "SEL" := by
  cases h with
  | sel => exact .inr rfl
  | _ => exact .inl rfl

end

/-! ### The timer's bound (R31) -/

theorem timerBound_iff {s : State} :
    s.timerBound = true ↔ (s.irqEnabled = true → s.deadline ≤ s.tLast + 0xFFFF) := by
  have : s.deadline - s.tLast ≤ 0xFFFF ↔ s.deadline ≤ s.tLast + 0xFFFF := by omega
  cases h : s.irqEnabled <;> simp [State.timerBound, h, this]

/-- An arming is at most the largest countdown past the time it happens at, and a deadline that is kept or rebased moves
with the clock or falls behind it. -/
theorem exec_keeps_timerBound {i : Instr} {s s' : State} (h : exec i s = .next s') (hi : ∀ b, i ≠ .load b)
    (hb : s.timerBound = true) : s'.timerBound = true := by
  rw [timerBound_iff] at hb ⊢
  intro he
  have hrunning {t : Int} (ha : (advance t s).irqEnabled = true) : s.deadline ≤ s.tLast + 0xFFFF :=
    hb (irqEnabled_of_advance ha)
  cases exec_effect h with
  | store _ _ ht hs =>
    have hd : s'.deadline = s.deadline := congrArg BitVec.toInt hs.nextTime
    have hold := hb (hs.irqEnabled ▸ he)
    rw [hd, hs.tLast, State.at_tLast]
    omega
  | @enable t v d _ _ _ hd =>
    change d.toInt ≤ t + 0xFFFF
    omega
  | disable => contradiction
  | @count _ t v c d _ _ _ hd =>
    have harmed := hd.toInt he
    change d.toInt ≤ t + 0xFFFF
    omega
  | @run t _ ht =>
    have hold := hrunning he
    rw [State.at_deadline, State.at_tLast, advance_deadline]
    omega
  | @endframe t d _ ht hd =>
    have hrebased := hd.toInt he
    have hold := hrunning he
    change d.toInt ≤ 0 + 0xFFFF
    omega
  | reset => simp [applyMapping_eq] at he
  | apply => rw [applyMapping_eq] at he ⊢; exact hb he
  | nextirq | save => exact hb he
  | load => exact absurd rfl (hi _)

theorem decodeWrite_ne_load (g : Region) (l : Latch) (t : Int) (v : Byte) (b : List Byte) :
    decodeWrite g l t v ≠ .load b := by
  cases g with
  | data =>
    rw [decodeWrite, decodeData]
    split <;> simp
  | select | sound | outside => simp [decodeWrite]

/-- Only the call of LOAD decodes to LOAD. -/
theorem eq_call_of_decode_load {c : Config} {l : Latch} {r : Request} {b : List Byte}
    (h : decode c l r = .ok (.load b)) : r = .call 6 (.bytes b) := by
  cases r with
  | write t a v =>
    rw [decode_write, Except.ok.injEq] at h
    exact absurd h (decodeWrite_ne_load _ _ _ _ _)
  | call n args =>
    simp only [decode, decodeCall] at h
    split at h
    case h_7 hn =>
      split at h
      · rw [Except.ok.injEq, Instr.load.injEq] at h
        rw [h, show n = 6 from BitVec.eq_of_toNat_eq hn]
      · contradiction
    all_goals simp at h

/-- Settles O28: an idle step changes nothing, and a request that is not the call of LOAD decodes to an operation that keeps
the bound. -/
theorem everyStepButLoadKeepsTheTimerBound : Obligations.EveryStepButLoadKeepsTheTimerBound := by
  intro s s' hb hload hstep
  obtain ⟨-, h⟩ | ⟨r, rest, i, hin, hdec, h⟩ | ⟨r, rest, e, -, -, h⟩ := step_cases s
  · rw [h, Host.Outcome.next.injEq] at hstep
    exact hstep ▸ hb
  · have hi (b : List Byte) : i ≠ .load b := by
      rintro rfl
      exact hload b (by rw [hin, eq_call_of_decode_load hdec]; rfl)
    exact exec_keeps_timerBound (h.symm.trans hstep) hi hb
  · rw [h] at hstep
    contradiction

/-! ### The flags and the countdown -/

/-- Pending is cleared only by IRQCTL with bit 0 clear and by RESET, because no advance clears it. -/
theorem eq_of_exec_clears_pending {i : Instr} {s s' : State} (h : exec i s = .next s') (hp : s.irqPending = true)
    (hp' : s'.irqPending = false) : i = .reset ∨ ∃ t v, i = .irqctl t v ∧ v[0] = false := by
  cases exec_effect h with
  | store _ _ _ hs => simp [hs.irqPending, hp] at hp'
  | enable | count | run | endframe => simp [advance_keeps_pending hp] at hp'
  | disable _ _ hv => exact .inr ⟨_, _, rfl, hv⟩
  | reset => exact .inl rfl
  | apply => simp [applyMapping_eq, hp] at hp'
  | nextirq | save | load => simp [hp] at hp'

/-- Pending is set only by an operation whose advance meets the deadline of an enabled timer. -/
theorem expired_of_exec_sets_pending {i : Instr} {s s' : State} (h : exec i s = .next s') (hp : s.irqPending = false)
    (hp' : s'.irqPending = true) :
    s.irqEnabled = true ∧ ∃ t, s.deadline ≤ t ∧
      (i = .run t ∨ i = .endframe t ∨ ∃ v, i = .irqctl t v ∨ i = .irqlo t v ∨ i = .irqhi t v) := by
  cases exec_effect h with
  | store _ _ _ hs => simp [hs.irqPending, hp] at hp'
  | enable =>
    obtain ⟨he, hd⟩ := expired_of_advance_sets_pending hp hp'
    exact ⟨he, _, hd, .inr (.inr ⟨_, .inl rfl⟩)⟩
  | count _ _ _ _ hi =>
    obtain ⟨he, hd⟩ := expired_of_advance_sets_pending hp hp'
    exact ⟨he, _, hd, .inr (.inr ⟨_, .inr (hi.imp And.left And.left)⟩)⟩
  | run =>
    obtain ⟨he, hd⟩ := expired_of_advance_sets_pending hp hp'
    exact ⟨he, _, hd, .inl rfl⟩
  | endframe =>
    obtain ⟨he, hd⟩ := expired_of_advance_sets_pending hp hp'
    exact ⟨he, _, hd, .inr (.inl rfl)⟩
  | disable => contradiction
  | reset | apply => simp [applyMapping_eq, hp] at hp'
  | nextirq | save | load => simp [hp] at hp'

/-- Settles O31, by the two directions above. -/
theorem onlyExpirySetsAndOnlyDisablingClearsPending : Obligations.OnlyExpirySetsAndOnlyDisablingClearsPending :=
  fun _ _ _ h => ⟨eq_of_exec_clears_pending h, expired_of_exec_sets_pending h⟩

/-- The flag byte of a block that LOAD accepts is that of the flag it installs (R183, R185). -/
theorem flagByte_of_blockOk {b : List Byte} (hb : blockOk b = true) : byteAt b 13 = flagByte (byteAt b 13)[0] := by
  simp only [blockOk, Bool.and_eq_true, decide_eq_true_eq] at hb
  obtain ⟨-, hle⟩ := hb
  obtain h | h : (byteAt b 13).toNat = 0 ∨ (byteAt b 13).toNat = 1 := by omega
  · rw [show byteAt b 13 = 0 from BitVec.eq_of_toNat_eq h]; rfl
  · rw [show byteAt b 13 = 1 from BitVec.eq_of_toNat_eq h]; rfl

/-- The enable is set only by IRQCTL with bit 0 set and by LOAD of a set flag, because no advance sets it. -/
theorem eq_of_exec_sets_enable {i : Instr} {s s' : State} (h : exec i s = .next s') (he : s.irqEnabled = false)
    (he' : s'.irqEnabled = true) :
    (∃ t v, i = .irqctl t v ∧ v[0] = true) ∨ ∃ b, i = .load b ∧ byteAt b 13 = 1 := by
  cases exec_effect h with
  | store _ _ _ hs => simp [hs.irqEnabled, he] at he'
  | enable _ _ _ hv => exact .inl ⟨_, _, rfl, hv⟩
  | disable => contradiction
  | count | run | endframe => exact absurd (irqEnabled_of_advance he') (by simp [he])
  | reset | apply => simp [applyMapping_eq, he] at he'
  | nextirq | save => simp [he] at he'
  | load _ hb => exact .inr ⟨_, rfl, (flagByte_of_blockOk hb).trans (congrArg flagByte he')⟩

/-- The enable is cleared only by RESET, LOAD of a clear flag, IRQCTL with bit 0 clear, or an advance that meets the
deadline. -/
theorem eq_or_expired_of_exec_clears_enable {i : Instr} {s s' : State} (h : exec i s = .next s')
    (he : s.irqEnabled = true) (he' : s'.irqEnabled = false) :
    i = .reset ∨ (∃ b, i = .load b ∧ byteAt b 13 = 0) ∨ (∃ t v, i = .irqctl t v ∧ v[0] = false) ∨
      ∃ t, s.deadline ≤ t ∧ (i = .run t ∨ i = .endframe t ∨ ∃ v, i = .irqlo t v ∨ i = .irqhi t v) := by
  have hexpired {t : Int} (ha : (advance t s).irqEnabled = false) : s.deadline ≤ t :=
    expired_of_advance_clears_enable he ha
  cases exec_effect h with
  | store _ _ _ hs => simp [hs.irqEnabled, he] at he'
  | enable => contradiction
  | disable _ _ hv => exact .inr (.inr (.inl ⟨_, _, rfl, hv⟩))
  | count _ _ _ _ hi =>
    exact .inr (.inr (.inr ⟨_, hexpired he', .inr (.inr ⟨_, hi.imp And.left And.left⟩)⟩))
  | run => exact .inr (.inr (.inr ⟨_, hexpired he', .inl rfl⟩))
  | endframe => exact .inr (.inr (.inr ⟨_, hexpired he', .inr (.inl rfl)⟩))
  | reset => exact .inl rfl
  | apply => simp [applyMapping_eq, he] at he'
  | nextirq | save => simp [he] at he'
  | load _ hb => exact .inr (.inl ⟨_, rfl, (flagByte_of_blockOk hb).trans (congrArg flagByte he')⟩)

/-- Settles O32, by the two directions above. -/
theorem whatSetsAndClearsTheEnable : Obligations.WhatSetsAndClearsTheEnable :=
  fun _ _ _ h => ⟨eq_of_exec_sets_enable h, eq_or_expired_of_exec_clears_enable h⟩

/-- Settles O33: a disabled timer does not move in an advance, so only what writes the countdown itself changes it. -/
theorem aDisabledCountdownHolds : Obligations.ADisabledCountdownHolds := by
  intro i s s' h he
  have hstopped (t : Int) : (advance t s).irqCount = s.irqCount := by rw [advance_disabled he]
  cases exec_effect h with
  | store _ _ _ hs => exact .inl hs.irqCount
  | enable | disable | run | endframe => exact .inl (hstopped _)
  | count _ _ _ _ hi => exact .inr (.inr (.inr ⟨_, _, hi.imp And.left And.left⟩))
  | reset => exact .inr (.inl rfl)
  | apply => exact .inl (by rw [applyMapping_eq]; rfl)
  | nextirq | save => exact .inl rfl
  | load => exact .inr (.inr (.inl ⟨_, rfl⟩))

/-! ### The registers and the time bookkeeping -/

/-- Settles O34: a store changes the one register of its mnemonic, and the timer's operations none but the deadline. -/
theorem eachRegisterHasOnlyItsOwnWriters : Obligations.EachRegisterHasOnlyItsOwnWriters := by
  intro i s s' h hreset hload
  cases exec_effect h with
  | store _ _ _ hs =>
    exact ⟨hs.chrBanks, hs.prgBanks, hs.wramControl, hs.mirroring, hs.command, .inl hs.nextTime⟩
  | enable | disable | run | endframe => simp [Instr.mnemonic]
  | count _ _ _ _ hi => obtain ⟨rfl, -⟩ | ⟨rfl, -⟩ := hi <;> simp [Instr.mnemonic]
  | reset => contradiction
  | apply => simp [applyMapping_eq]
  | nextirq | save => simp
  | load => exact absurd rfl (hload _)

/-- Settles O36, by what each effect leaves in the bookkeeping fields. -/
theorem theTimeBookkeepingOfEveryOperation : Obligations.TheTimeBookkeepingOfEveryOperation := by
  intro i s s' h
  cases exec_effect h with
  | store he hr ht hs =>
    rw [he]
    exact ⟨hs.cfg, hs.inbox, hs.resetDone.trans hr, ht, hs.tLast⟩
  | enable _ hr ht | disable hr ht => simp [Instr.encoding, hr, ht]
  | count _ _ hr ht hi => obtain ⟨rfl, -⟩ | ⟨rfl, -⟩ := hi <;> simp [Instr.encoding, hr, ht]
  | run hr ht | endframe _ hr ht => simp [Instr.encoding, hr, ht]
  | reset => simp [Instr.encoding, applyMapping_eq]
  | apply hr => simp [Instr.encoding, applyMapping_eq, hr]
  | nextirq hr | save hr | load hr => simp [Instr.encoding, hr]

/-! ### The step and the refusals -/

/-- Settles O7, by the branches of the step. -/
theorem stepRunsTheDecodedInstruction : Obligations.StepRunsTheDecodedInstruction := by
  refine ⟨fun s r rest i hin hdec => ?_, fun s r rest e hin hdec => ?_, fun s hin => ?_⟩
  · simp [step, hin, hdec]
  · simp [step, hin, hdec]
  · simp [step, hin]

theorem afterReset_beforeReset {s : State} {k : State → Result} (h : s.resetDone = false) :
    afterReset s k = .refused .beforeReset := by
  simp [afterReset, h]

theorem timed_beforeReset {t : Int} {s : State} {k : State → Result} (h : s.resetDone = false) :
    timed t s k = .refused .beforeReset := afterReset_beforeReset h

theorem timed_backwards {t : Int} {s : State} {k : State → Result} (h : s.resetDone = true) (ht : t < s.tLast) :
    timed t s k = .refused (.timeBackwards t s.tLast) := by
  rw [timed, afterReset_accepts h]
  exact if_neg (Int.not_le.2 ht)

/-- Every operation but RESET stands under `afterReset`, directly or as a timed one. -/
theorem exec_beforeReset {i : Instr} {s : State} (h : s.resetDone = false) (hi : i ≠ .reset) :
    exec i s = .refused .beforeReset := by
  cases i with
  | reset => contradiction
  | nextirq | apply | save | load => rw [exec]; exact afterReset_beforeReset h
  | _ => rw [exec]; exact timed_beforeReset h

/-- Every write operation is a timed one, at the time of its encoding. -/
theorem exec_write_eq_timed {i : Instr} {r : Region} {l : Option Latch} {t : Int} {v : Byte}
    (h : i.encoding = .write r l t v) : ∃ k, ∀ s, exec i s = timed t s k := by
  cases i with
  | reset | run | endframe | nextirq | apply | save | load => contradiction
  | _ => cases h; exact ⟨_, fun _ => rfl⟩

/-- Settles O39, from the two guards around every operation but RESET. -/
theorem brokenObligationsAreRefused : Obligations.BrokenObligationsAreRefused := by
  refine ⟨fun i s h hi => exec_beforeReset h hi, fun i s r l t v he h ht => ?_, fun s t h ht => ⟨?_, ?_⟩⟩
  · obtain ⟨k, hk⟩ := exec_write_eq_timed he
    rw [hk, timed_backwards h ht]
  · rw [exec, execRun, timed_backwards h ht]
  · rw [exec, execEndframe, timed_backwards h ht]

/-! ### Reset -/

/-- The thirteen calls of `applyMapping`, in the order of R180. -/
theorem map_regCall_mappingOrder (s : State) :
    mappingOrder.map s.regCall =
      [.setProgramBank s.cfg.prgBase .kib8 (.idx s.prgBanks[0]),
       .setProgramBank (s.cfg.prgBase + 0x2000) .kib8 (.idx s.prgBanks[1]),
       .setProgramBank (s.cfg.prgBase + 0x4000) .kib8 (.idx s.prgBanks[2]),
       .setGraphicsBank 0x0000 .kib1 (.idx s.chrBanks[0]), .setGraphicsBank 0x0400 .kib1 (.idx s.chrBanks[1]),
       .setGraphicsBank 0x0800 .kib1 (.idx s.chrBanks[2]), .setGraphicsBank 0x0C00 .kib1 (.idx s.chrBanks[3]),
       .setGraphicsBank 0x1000 .kib1 (.idx s.chrBanks[4]), .setGraphicsBank 0x1400 .kib1 (.idx s.chrBanks[5]),
       .setGraphicsBank 0x1800 .kib1 (.idx s.chrBanks[6]), .setGraphicsBank 0x1C00 .kib1 (.idx s.chrBanks[7]),
       mirrorCall s.mirroring, wramCall s.cfg s.wramControl] := rfl

theorem mirrorCall_zero : mirrorCall 0 = .setMirrorVertical := rfl

theorem wramCall_wramReset (c : Config) : wramCall c wramReset = .enableExtraRam true := rfl

/-- Settles O40: the pin of the topmost window, then the thirteen calls of the reset registers. -/
theorem resetInstallsTheResetValuesAndMakesFourteenCalls :
    Obligations.ResetInstallsTheResetValuesAndMakesFourteenCalls := by
  intro s
  rw [execReset_next, applyMapping_eq, map_regCall_mappingOrder, State.pinTop_trace, List.append_assoc]
  simp only [State.pinTop_mirroring, State.resetRegisters_mirroring, mirrorCall_zero, State.pinTop_wramControl,
    State.resetRegisters_wramControl, wramCall_wramReset]
  rfl

/-- Settles O41, from the exact state that RESET leaves. -/
theorem theResetStateIsWhatResetLeaves : Obligations.TheResetStateIsWhatResetLeaves := by
  intro s hc ht hi
  rw [resetInstallsTheResetValuesAndMakesFourteenCalls s, hc, ht, hi]
  rfl

theorem regCall_applyMapping (s : State) (c : Fin 13) : (applyMapping s).regCall c = s.regCall c := by
  rw [applyMapping_eq]
  rfl

/-- `applyMapping` makes the bus current, from any bus (R128 (c), R180). -/
theorem busCurrent_applyMapping {s : State} (hc : s.cfg.wf = true) : (applyMapping s).busCurrent = true := by
  rw [busCurrent_iff]
  intro c
  rw [regCall_applyMapping, bus_applyMapping]
  exact holds_run_regs hc _ _ c (.inl (mem_mappingOrder c))

/-- Settles O51: the state after reset ends in `applyMapping`, which makes the bus current. -/
theorem theInvariantsHoldAfterReset : Obligations.TheInvariantsHoldAfterReset := by
  have hreset : exec .reset { State.reset with trace := [] } = .next State.reset :=
    theResetStateIsWhatResetLeaves _ rfl rfl rfl
  refine ⟨by decide, by decide, ?_⟩
  rw [execReset_next.1 hreset]
  exact busCurrent_applyMapping (by decide)

end Sys2Proof.Machine
end

section
/-! PROOFS. The outputs and the collaborators seen from outside (20_memory.md): the calls an operation makes, what they keep
of the view, the endian codec, and what a read shows. `exec_trace` says once what an operation adds to the output trace. -/

namespace Sys2Proof.Machine

/-! ### The calls an operation makes -/

/-- The mnemonics of the writes that store a bank, the RAM control or the mirroring mode and apply it (R121, R141). -/
def applyingWrites : List String :=
  ["CHR0", "CHR1", "CHR2", "CHR3", "CHR4", "CHR5", "CHR6", "CHR7", "WRAM", "PRG0", "PRG1", "PRG2", "MIR"]

/-- How many registers an operation applies: one in such a write, all thirteen in `applyMapping` and in `reset`. -/
def appliedCount (i : Instr) : Nat :=
  if i.mnemonic ∈ applyingWrites then 1 else if i = .apply ∨ i = .reset then 13 else 0

/-- The pin of the topmost window to the last bank (R24). -/
def pinCall (c : Config) : Call := .setProgramBank (topBase c) .kib8 .last

/-- The calls an operation makes before it applies any register: the pin, in `reset` (R230). -/
def pinCalls (i : Instr) (c : Config) : List Call := if i = .reset then [pinCall c] else []

theorem chr_mem_applyingWrites : ∀ j : Fin 8, "CHR" ++ toString j.val ∈ applyingWrites := by decide

theorem prg_mem_applyingWrites : ∀ k : Fin 3, "PRG" ++ toString k.val ∈ applyingWrites := by decide

/-- A store applies its one register, if it has one, as it leaves it. -/
theorem Stores.trace {v : Byte} {s s' : State} {m : String} (h : Stores v s m s') :
    ∃ regs : List (Fin 13), s'.trace = s.trace ++ regs.map s'.regCall ∧
      regs.length = if m ∈ applyingWrites then 1 else 0 := by
  cases h with
  | sel | snd | out => exact ⟨[], (List.append_nil _).symm, rfl⟩
  | chr j => exact ⟨[_], rfl, (if_pos (chr_mem_applyingWrites j)).symm⟩
  | prg k => exact ⟨[_], rfl, (if_pos (prg_mem_applyingWrites k)).symm⟩
  | wram => exact ⟨[8], rfl, rfl⟩
  | mir => exact ⟨[12], rfl, rfl⟩

/-- An operation that answers next keeps the calls made and adds the pin, if it is RESET, and then the calls of the
registers it applies, as it leaves them. -/
theorem exec_trace {i : Instr} {s s' : State} (h : exec i s = .next s') :
    ∃ regs : List (Fin 13), s'.trace = s.trace ++ (pinCalls i s.cfg ++ regs.map s'.regCall) ∧
      regs.length = appliedCount i := by
  cases exec_effect h with
  | store he _ _ hs =>
    have hi : i ≠ .apply ∧ i ≠ .reset := by constructor <;> (rintro rfl; contradiction)
    obtain ⟨regs, ht, hn⟩ := hs.trace
    exact ⟨regs, by simpa [pinCalls, hi] using ht, by simpa [appliedCount, hi] using hn⟩
  | enable | disable | run | endframe | nextirq | save | load => exact ⟨[], by simp [pinCalls], rfl⟩
  | count _ _ _ _ hi => obtain ⟨rfl, -⟩ | ⟨rfl, -⟩ := hi <;> exact ⟨[], by simp [pinCalls], rfl⟩
  | reset => exact ⟨mappingOrder, by rw [applyMapping_eq, State.pinTop_trace, List.append_assoc]; rfl, rfl⟩
  | apply => exact ⟨mappingOrder, by rw [applyMapping_eq]; rfl, rfl⟩

/-- Settles O35: the count of the pin and of the registers applied. -/
theorem howManyCallsEachOperationMakes : Obligations.HowManyCallsEachOperationMakes := by
  intro i s s' h
  obtain ⟨regs, ht, hn⟩ := exec_trace h
  refine ⟨_, ht, ?_⟩
  rw [List.length_append, List.length_map, hn]
  cases i <;> rfl

/-! ### The invariant -/

theorem inv_iff {s : State} :
    s.inv = true ↔ s.cfg.wf = true ∧ s.resetDone = true ∧ 0 ≤ s.tLast ∧ (∀ c ∈ s.trace, c.legal s.cfg = true) ∧
      s.bus.holds (pinCall s.cfg) := by
  simp only [State.inv, Bool.and_eq_true, decide_eq_true_eq, List.all_eq_true, and_assoc]
  rfl

theorem legal_pinCall (c : Config) : (pinCall c).legal c = true := by
  simp [pinCall, Call.legal]

theorem legal_of_mem_pinCalls {i : Instr} {c : Config} {d : Call} (h : d ∈ pinCalls i c) : d.legal c = true := by
  have hd : d = pinCall c := by
    rw [pinCalls] at h
    split at h
    · exact List.mem_singleton.1 h
    · contradiction
  rw [hd]
  exact legal_pinCall c

/-- The pin keeps the topmost window pinned. -/
theorem holds_run_pinCalls {i : Instr} {c : Config} {v : BusView} (h : v.holds (pinCall c)) :
    (v.run (pinCalls i c)).holds (pinCall c) := by
  rw [pinCalls]
  split
  · exact BusView.holds_apply v (pinCall c)
  · exact h

theorem legal_wramCall (c : Config) (v : Byte) : (wramCall c v).legal c = true := by
  have hbank : (wramBank v).toNat < 64 := by
    rw [wramBank, BitVec.toNat_setWidth]
    exact (Nat.mod_le _ _).trans_lt (BitVec.isLt _)
  rw [wramCall]
  split
  · rfl
  · simp [Call.legal, hbank]

theorem legal_mirrorCall (c : Config) (m : BitVec 2) : (mirrorCall m).legal c = true := by
  rw [mirrorCall]
  split
  · rfl
  · split <;> rfl

/-- The call of every register is one the chip may make (R56 to R59). -/
theorem legal_regCall (s : State) (c : Fin 13) : (s.regCall c).legal s.cfg = true := by
  by_cases hchr : c.val < 8
  · rw [State.regCall, dif_pos hchr]
    simp [Call.legal, chrWindow, chrGran, hchr]
  by_cases hwram : c.val = 8
  · rw [State.regCall, dif_neg hchr, if_pos hwram]
    exact legal_wramCall _ _
  by_cases hprg : c.val - 9 < 3
  · rw [State.regCall, dif_neg hchr, if_neg hwram, dif_pos hprg]
    obtain h | h | h : c.val - 9 = 0 ∨ c.val - 9 = 1 ∨ c.val - 9 = 2 := by omega
    all_goals simp [Call.legal, h]
  · rw [State.regCall, dif_neg hchr, if_neg hwram, dif_neg hprg]
    exact legal_mirrorCall _ _

/-- Time that is not negative stays so: an operation leaves its own later time, 0 or the last one (R161). -/
theorem exec_keeps_time_nonneg {i : Instr} {s s' : State} (h : exec i s = .next s') (h0 : 0 ≤ s.tLast) :
    0 ≤ s'.tLast := by
  cases exec_effect h with
  | store _ _ ht hs => rw [hs.tLast]; exact h0.trans ht
  | enable _ _ ht | disable _ ht | count _ _ _ ht | run _ ht => simpa using h0.trans ht
  | endframe => exact le_rfl
  | reset => simp [applyMapping_eq]
  | apply => simpa [applyMapping_eq] using h0
  | nextirq | save | load => exact h0

/-- The new calls are legal, and none of a register names the topmost window. -/
theorem exec_keeps_inv {i : Instr} {s s' : State} (h : exec i s = .next s') (hinv : s.inv = true) : s'.inv = true := by
  obtain ⟨hwf, -, htime, hlegal, htop⟩ := inv_iff.1 hinv
  obtain ⟨hcfg, -, hreset, -⟩ := theTimeBookkeepingOfEveryOperation i s s' h
  obtain ⟨regs, htrace, -⟩ := exec_trace h
  rw [← hcfg] at hwf hlegal htop htrace
  refine inv_iff.2 ⟨hwf, hreset, exec_keeps_time_nonneg h htime, fun c hc => ?_, ?_⟩
  · rw [htrace, List.mem_append, List.mem_append, List.mem_map] at hc
    obtain hold | hpin | ⟨r, -, rfl⟩ := hc
    · exact hlegal c hold
    · exact legal_of_mem_pinCalls hpin
    · exact legal_regCall s' r
  · rw [State.bus, htrace, BusView.run_append, BusView.run_append]
    refine BusView.holds_run_of_ne (fun d hd => ?_) (holds_run_pinCalls htop)
    obtain ⟨r, -, rfl⟩ := List.mem_map.1 hd
    exact (entry_ne_top hwf r).symm

/-- Settles O50: a step is idle or runs the decoded operation, which keeps the invariant. -/
theorem everyStepKeepsTheInvariant : Obligations.EveryStepKeepsTheInvariant := by
  intro s s' hinv hstep
  obtain ⟨-, h⟩ | ⟨r, rest, i, -, -, h⟩ | ⟨r, rest, e, -, -, h⟩ := step_cases s
  · rw [h, Host.Outcome.next.injEq] at hstep
    exact hstep ▸ hinv
  · exact exec_keeps_inv (h.symm.trans hstep) hinv
  · rw [h] at hstep
    contradiction

/-! ### A write done twice (R69) -/

/-- A second write completes, makes the calls of the first again and leaves every register and the view alone. -/
def Repeatable (f : Int → Byte → Instr) : Prop :=
  ∀ (s s₁ : State) (t₁ t₂ : Int) (v : Byte), t₁ ≤ t₂ → exec (f t₁ v) s = .next s₁ →
    ∃ s₂ calls, exec (f t₂ v) s₁ = .next s₂ ∧ s₁.trace = s.trace ++ calls ∧
      s₂ = { s₁ with tLast := t₂, trace := s₁.trace ++ calls } ∧ s₂.bus = s₁.bus

/-- A call made again finds its entry of the view as it says. -/
theorem BusView.apply_apply {v : BusView} (hw : v.wf = true) (c : Call) : (v.apply c).apply c = v.apply c :=
  (BusView.apply_eq_self_iff (BusView.apply_wf v c hw) c).2 (BusView.holds_apply v c)

/-- The registers of `s` with the time `t`, no answer and the trace `l`. -/
def State.booked (s : State) (t : Int) (l : List Call) : State := { s with tLast := t, answer := .nothing, trace := l }

/-- An update of registers: it takes no part in the bookkeeping, and storing again stores the same. -/
structure StoresRegisters (g : State → State) : Prop where
  booked : ∀ s t l, g (s.booked t l) = (g s).booked t l
  again : ∀ s, g (g s) = g s

theorem storesRegisters_setChr (i : Fin 8) (v : Byte) : StoresRegisters (State.setChr · i v) where
  booked _ _ _ := rfl
  again _ := by simp [State.setChr]

theorem storesRegisters_setPrg (k : Fin 3) (v : Byte) : StoresRegisters (State.setPrg · k v) where
  booked _ _ _ := rfl
  again _ := by simp [State.setPrg]

theorem storesRegisters_setWram (v : Byte) : StoresRegisters (State.setWram · v) where
  booked _ _ _ := rfl
  again _ := rfl

theorem storesRegisters_setMirroring (m : BitVec 2) : StoresRegisters (State.setMirroring · m) where
  booked _ _ _ := rfl
  again _ := rfl

/-- A write that stores registers and applies the register `c`. -/
theorem repeatable_of_applies {f : Int → Byte → Instr} {g : Byte → State → State} (c : Fin 13)
    (hg : ∀ v, StoresRegisters (g v))
    (hf : ∀ {t v s s'}, exec (f t v) s = .next s' ↔
      s.resetDone = true ∧ s.tLast ≤ t ∧ s' = applyReg c (g v (s.at t))) : Repeatable f := by
  intro s s₁ t₁ t₂ v ht h
  obtain ⟨-, -, hreset, -⟩ := theTimeBookkeepingOfEveryOperation _ _ _ h
  obtain ⟨-, -, hleft⟩ := hf.1 h
  have hs₁ : s₁ = (g v s).booked t₁ (s.trace ++ [(g v s).regCall c]) := by
    rw [hleft, show s.at t₁ = s.booked t₁ s.trace from rfl, (hg v).booked]
    rfl
  have hstored : g v (s₁.at t₂) = s₁.at t₂ := by
    rw [hs₁]
    exact ((hg v).booked (g v s) t₂ _).trans (by rw [(hg v).again]; rfl)
  refine ⟨_, [(g v s).regCall c], hf.2 ⟨hreset, by rw [hs₁]; exact ht, rfl⟩, by rw [hs₁]; rfl, ?_, ?_⟩
  · rw [hstored, hs₁]
    rfl
  · rw [hstored, applyReg, State.bus_emit, hs₁]
    have hbus : ((g v s).booked t₁ (s.trace ++ [(g v s).regCall c])).bus = s.bus.apply ((g v s).regCall c) :=
      State.bus_emit s _
    exact (congrArg (BusView.apply · _) hbus).trans ((BusView.apply_apply s.bus_wf _).trans hbus.symm)

theorem repeatable_sel : Repeatable .sel := by
  intro s s₁ t₁ t₂ v ht h
  obtain ⟨hr, -, rfl⟩ := execSel_next.1 h
  exact ⟨_, [], execSel_next.2 ⟨hr, ht, rfl⟩, (List.append_nil _).symm, by rw [List.append_nil]; rfl, rfl⟩

/-- Settles O18: SEL makes no call, and each of the others stores one register and applies it. -/
theorem repeatedBankWritesAreIdempotent : Obligations.RepeatedBankWritesAreIdempotent := by
  change ∀ f ∈ _, Repeatable f
  simp only [List.forall_mem_cons, List.not_mem_nil, false_imp_iff, implies_true, and_true]
  exact ⟨repeatable_sel,
    repeatable_of_applies 0 (storesRegisters_setChr 0) execChr0_next,
    repeatable_of_applies 1 (storesRegisters_setChr 1) execChr1_next,
    repeatable_of_applies 2 (storesRegisters_setChr 2) execChr2_next,
    repeatable_of_applies 3 (storesRegisters_setChr 3) execChr3_next,
    repeatable_of_applies 4 (storesRegisters_setChr 4) execChr4_next,
    repeatable_of_applies 5 (storesRegisters_setChr 5) execChr5_next,
    repeatable_of_applies 6 (storesRegisters_setChr 6) execChr6_next,
    repeatable_of_applies 7 (storesRegisters_setChr 7) execChr7_next,
    repeatable_of_applies 8 storesRegisters_setWram execWram_next,
    repeatable_of_applies 9 (storesRegisters_setPrg 0) execPrg0_next,
    repeatable_of_applies 10 (storesRegisters_setPrg 1) execPrg1_next,
    repeatable_of_applies 11 (storesRegisters_setPrg 2) execPrg2_next,
    repeatable_of_applies 12 (fun v => storesRegisters_setMirroring (mirMode v)) execMir_next⟩

/-! ### The endian codec (R54) -/

theorem byteAt_storeBytes_outside {bs : List Byte} (b : List Byte) {o j : Nat} (h : j < o ∨ o + bs.length ≤ j) :
    byteAt (storeBytes b o bs) j = byteAt b j := by
  induction bs generalizing b o with
  | nil => rfl
  | cons x xs ih =>
    rw [List.length_cons] at h
    rw [storeBytes, ih _ (by omega), byteAt_set, if_neg (by omega)]

theorem byteAt_storeBytes_inside {bs : List Byte} (b : List Byte) {o k : Nat} (h : o + bs.length ≤ b.length)
    (hk : k < bs.length) : byteAt (storeBytes b o bs) (o + k) = byteAt bs k := by
  induction bs generalizing b o k with
  | nil => contradiction
  | cons x xs ih =>
    rw [List.length_cons] at h hk
    rw [storeBytes]
    cases k with
    | zero =>
      rw [byteAt_storeBytes_outside _ (by omega), byteAt_set, if_pos (by omega)]
      rfl
    | succ k =>
      rw [show o + (k + 1) = o + 1 + k by omega, ih _ (by rw [List.length_set]; omega) (by omega)]
      rfl

/-- Settles O49: each byte stored is read back, and joined they are the value. -/
theorem theEndianCodecReadsBackWhatItStores : Obligations.TheEndianCodecReadsBackWhatItStores := by
  intro b o
  constructor
  · intro h v
    have hle (k : Nat) (hk : k < 2) : byteAt (setLe16 b o v) (o + k) = byteAt (le16 v) k :=
      byteAt_storeBytes_inside b h hk
    have hbe (k : Nat) (hk : k < 2) : byteAt (setBe16 b o v) (o + k) = byteAt (le16 v).reverse k :=
      byteAt_storeBytes_inside b h hk
    refine ⟨?_, ?_, fun j hj => ⟨byteAt_storeBytes_outside b hj, byteAt_storeBytes_outside b hj⟩⟩
    · have hfirst : byteAt (setLe16 b o v) o = byteAt (le16 v) 0 := hle 0 (by omega)
      rw [getLe16, hle 1 (by omega), hfirst]
      exact join_bytes16 v
    · have hfirst : byteAt (setBe16 b o v) o = byteAt (le16 v).reverse 0 := hbe 0 (by omega)
      rw [getBe16, hbe 1 (by omega), hfirst]
      exact join_bytes16 v
  · intro h v
    have hle (k : Nat) (hk : k < 4) : byteAt (setLe32 b o v) (o + k) = byteAt (le32 v) k :=
      byteAt_storeBytes_inside b h hk
    have hbe (k : Nat) (hk : k < 4) : byteAt (setBe32 b o v) (o + k) = byteAt (le32 v).reverse k :=
      byteAt_storeBytes_inside b h hk
    refine ⟨?_, ?_, fun j hj => ⟨byteAt_storeBytes_outside b hj, byteAt_storeBytes_outside b hj⟩⟩
    · have hfirst : byteAt (setLe32 b o v) o = byteAt (le32 v) 0 := hle 0 (by omega)
      rw [getLe32, hle 3 (by omega), hle 2 (by omega), hle 1 (by omega), hfirst]
      exact join_bytes32 v
    · have hfirst : byteAt (setBe32 b o v) o = byteAt (le32 v).reverse 0 := hbe 0 (by omega)
      rw [getBe32, hbe 3 (by omega), hbe 2 (by omega), hbe 1 (by omega), hfirst]
      exact join_bytes32 v

/-! ### The multiplexer (R62) -/

theorem windowBase_eq (a : Addr) : windowBase a = (a.extractLsb' 13 3).toNat * 0x2000 := by
  have := a.isLt
  rw [windowBase, prgGran, BitVec.extractLsb'_toNat, Nat.shiftRight_eq_div_pow]
  omega

/-- On a bus whose rule shows the bank in the command-0x8 window, a CPU read shows the entry of the window of address
bits 15:13 at the offset of bits 12:0 (R62). -/
theorem cpuRead_of_get {rule : BusView → Bool} {v : BusView} {a : Addr} {x : BankIdx}
    (hget : BankMap.get ((a.extractLsb' 13 3).toNat * 0x2000) v.prgWin = some x)
    (hrule : a.extractLsb' 13 3 = 0b011 → rule v = true) :
    v.cpuRead defaultConfig rule a = some (x, (a.extractLsb' 0 13).toNat) := by
  have hshown : ¬ (windowBase a = defaultConfig.wramBase ∧ rule v = false) := by
    rintro ⟨hw, hr⟩
    rw [windowBase_eq] at hw
    have h3 : a.extractLsb' 13 3 = 0b011 := BitVec.eq_of_toNat_eq (Nat.eq_of_mul_eq_mul_right (by decide) hw)
    rw [hrule h3] at hr
    contradiction
  rw [BusView.cpuRead, if_neg hshown, windowBase_eq, hget]
  rfl

/-- A current bus shows each program-bank register in its window (R122 to R124). -/
theorem get_prgWindow {s : State} (hcur : s.busCurrent = true) (k : Fin 3) :
    BankMap.get (prgWindow s.cfg k.val) s.bus.prgWin = some (.idx s.prgBanks[k.val]) := by
  have h := (busCurrent_iff s).1 hcur ⟨9 + k.val, by omega⟩
  rwa [regCall_prg] at h

/-- A current bus shows the bank of the command-0x8 register in its window, in bank mode (R120). -/
theorem get_wramBase {s : State} (hcur : s.busCurrent = true) (hbank : ¬ ramSelect s.wramControl) :
    BankMap.get s.cfg.wramBase s.bus.prgWin = some (.idx (wramBank s.wramControl)) := by
  have h := (busCurrent_iff s).1 hcur 8
  rwa [regCall_wram, wramCall, if_neg hbank] at h

/-- A current bus shows each graphics-bank register in its window (R112 to R119). -/
theorem get_chrWindow {s : State} (hcur : s.busCurrent = true) (i : Fin 8) :
    BankMap.get i.val s.bus.chrWin = some (.idx s.chrBanks[i.val]) := by
  have h := (busCurrent_iff s).1 hcur (i.castLE (by decide))
  rw [regCall_chr, BusView.holds, chrWindow, Nat.mul_div_cancel _ (by decide)] at h
  exact h

/-- The bank that address bits 15:13 choose is what a current bus with the pin shows in their window (R62). -/
theorem get_of_programMux {s : State} (hcfg : s.cfg = defaultConfig) (hinv : s.inv = true) (hcur : s.busCurrent = true)
    {a : Addr} {x : BankIdx} (h : s.programMux a = some x) :
    BankMap.get ((a.extractLsb' 13 3).toNat * 0x2000) s.bus.prgWin = some x := by
  have hprg := get_prgWindow hcur
  rw [hcfg] at hprg
  unfold State.programMux at h
  split at h
  case h_1 hsel =>
    split at h
    · contradiction
    · next hbank =>
      rw [hsel, ← h, ← get_wramBase hcur hbank, hcfg]
      rfl
  case h_2 hsel => rw [hsel, ← h]; exact hprg 0
  case h_3 hsel => rw [hsel, ← h]; exact hprg 1
  case h_4 hsel => rw [hsel, ← h]; exact hprg 2
  case h_5 hsel =>
    obtain ⟨-, -, -, -, htop⟩ := inv_iff.1 hinv
    rw [hcfg] at htop
    rw [hsel, ← h]
    exact htop
  case h_6 => contradiction

theorem cpuRead_of_programMux {s : State} (hcfg : s.cfg = defaultConfig) (hinv : s.inv = true)
    (hcur : s.busCurrent = true) {rule : BusView → Bool} {a : Addr} {x : BankIdx} (h : s.programMux a = some x)
    (hrule : a.extractLsb' 13 3 = 0b011 → rule s.bus = true) :
    s.bus.cpuRead s.cfg rule a = some (x, (a.extractLsb' 0 13).toNat) := by
  rw [hcfg]
  exact cpuRead_of_get (get_of_programMux hcfg hinv hcur h) hrule

theorem graphicsWindow_eq (o : BitVec 13) : o.toNat / chrGran = (o.extractLsb' 10 3).toNat := by
  have := o.isLt
  rw [chrGran, BitVec.extractLsb'_toNat, Nat.shiftRight_eq_div_pow]
  omega

theorem graphicsRead_eq {s : State} (hcur : s.busCurrent = true) (o : BitVec 13) :
    s.bus.graphicsRead o.toNat = some (s.graphicsMux o, (o.extractLsb' 0 10).toNat) := by
  have h := get_chrWindow hcur (o.extractLsb' 10 3).toFin
  rw [BusView.graphicsRead, graphicsWindow_eq]
  exact congrArg (Option.map _) h

/-- Settles O52, by the two reads above. -/
theorem theBusShowsTheBanksTheMultiplexerChooses : Obligations.TheBusShowsTheBanksTheMultiplexerChooses :=
  fun _ hcfg hinv hcur => ⟨fun _ _ _ => cpuRead_of_programMux hcfg hinv hcur, graphicsRead_eq hcur⟩

/-! ### The byte a read returns (R61, R62) -/

/-- A memory of whole banks has a byte at every offset of every bank. -/
theorem exists_byte {rom : List Byte} {banks g k o : Nat} (hrom : rom.length = banks * g) (hk : k < banks)
    (ho : o < g) : ∃ b, rom[k * g + o]? = some b := by
  have hlt : k * g + o < rom.length := by
    calc k * g + o < k * g + g := by omega
      _ = (k + 1) * g := (Nat.succ_mul k g).symm
      _ ≤ rom.length := hrom ▸ Nat.mul_le_mul_right g hk
  exact ⟨_, List.getElem?_eq_getElem hlt⟩

/-- A bank index above the bits of an offset is the address of that bank and offset. -/
theorem toNat_append_offset {w : Nat} (n : Byte) (x : BitVec w) : (n ++ x).toNat = n.toNat * 2 ^ w + x.toNat := by
  rw [BitVec.toNat_append, ← Nat.shiftLeft_add_eq_or_of_lt x.isLt, Nat.shiftLeft_eq]

/-- The bank of an index and an offset below `2 ^ w`: in range the index is the memory's upper address bits, and past
the end the bus's function gives the bank. -/
theorem byte_of_index {rom : List Byte} {banks w : Nat} {reduce : Nat → Nat → Nat} {n : Byte} {x : BitVec w}
    {y : Option Byte} (hrom : rom.length = banks * 2 ^ w)
    (hy : y = rom[bankNumber reduce banks (.idx n) * 2 ^ w + x.toNat]?) :
    (n.toNat < banks → ∃ b, rom[(n ++ x).toNat]? = some b ∧ y = some b) ∧
      (banks ≤ n.toNat → y = rom[reduce n.toNat banks * 2 ^ w + x.toNat]?) := by
  constructor
  · intro hn
    obtain ⟨b, hb⟩ := exists_byte hrom hn x.isLt
    rw [hy, bankNumber_of_lt reduce hn, toNat_append_offset]
    exact ⟨b, hb, hb⟩
  · intro hn
    rw [hy, bankNumber_of_ge reduce hn]

/-- Settles O55: what the bus shows (O52), read from the memory. -/
theorem aReadReturnsTheByteAtTheBankAndTheOffset : Obligations.AReadReturnsTheByteAtTheBankAndTheOffset := by
  intro s rule reduce banks rom hcfg hinv hcur
  constructor
  · intro hrom a hrule
    have hread {x : BankIdx} (h : s.programMux a = some x) : programByte s.cfg rule reduce banks rom s.bus a =
        rom[bankNumber reduce banks x * 2 ^ 13 + (a.extractLsb' 0 13).toNat]? := by
      rw [programByte, cpuRead_of_programMux hcfg hinv hcur h hrule]
      rfl
    refine ⟨fun n hmux => byte_of_index hrom (hread hmux), fun hmux hbanks => ?_⟩
    obtain ⟨b, hb⟩ := exists_byte hrom (Nat.sub_one_lt_of_lt hbanks) (a.extractLsb' 0 13).isLt
    exact ⟨b, hb, (hread hmux).trans hb⟩
  · intro hrom o n hmux
    have hread : graphicsByte reduce banks rom s.bus o.toNat =
        rom[bankNumber reduce banks (.idx n) * 2 ^ 10 + (o.extractLsb' 0 10).toNat]? := by
      rw [graphicsByte, graphicsRead_eq hcur, hmux]
      rfl
    exact byte_of_index hrom hread

end Sys2Proof.Machine
end

section
/-! PROOFS. Encoding and decode (30_encoding.md): the decoder and the encoder undo each other, every key lies in exactly one
row of the opcode table, a delivered table word is the next operation, and every write is accepted. The region and the
latch say which operation a write is (`encoding_decodeWrite`, `decodeWrite_of_encoding`), and the call number and the
arguments which host call (`decodeCall_eq_ok`); the statements about requests, keys and words cite these. -/

namespace Sys2Proof.Machine

/-! ### Writes: the operation of a region and a latch -/

/-- The region and the latch of a write operation's encoding decode to that operation (R83, R87). -/
theorem decodeWrite_of_encoding {i : Instr} {r : Region} {l : Option Latch} {t : Int} {v : Byte}
    (h : i.encoding = .write r l t v) (latch : Latch) : decodeWrite r (l.getD latch) t v = i := by
  cases i with
  | reset | run | endframe | nextirq | apply | save | load => contradiction
  | _ => cases h; rfl

/-- The target of a data-range write needs exactly the latch that chose it (R83). -/
theorem encoding_decodeData (latch : Latch) (t : Int) (v : Byte) :
    (decodeData latch t v).encoding = .write .data (some latch) t v := by
  obtain ⟨⟨n, hn⟩⟩ := latch
  interval_cases n <;> rfl

/-- The operation of a write is encoded at the write's region, and admits the latch. -/
theorem encoding_decodeWrite (r : Region) (latch : Latch) (t : Int) (v : Byte) :
    ∃ l, (decodeWrite r latch t v).encoding = .write r l t v ∧ (Encoding.write r l t v).admits latch = true := by
  cases r with
  | data => exact ⟨some latch, encoding_decodeData latch t v, beq_self_eq_true latch⟩
  | select | sound | outside => exact ⟨none, rfl, rfl⟩

/-- An admitted latch is the one the encoding needs, if it needs one. -/
theorem getD_of_admits {r : Region} {l : Option Latch} {t : Int} {v : Byte} {latch : Latch}
    (h : (Encoding.write r l t v).admits latch = true) : l.getD latch = latch := by
  cases l with
  | none => rfl
  | some _ => exact eq_of_beq h

theorem wf_of_encoding_write {i : Instr} {r : Region} {l : Option Latch} {t : Int} {v : Byte}
    (h : i.encoding = .write r l t v) : i.wf = true := by
  cases i with
  | load => contradiction
  | _ => rfl

/-! ### Host calls -/

/-- A host call decodes to the well-formed operation that it encodes, and to no other (R81). -/
theorem decodeCall_eq_ok {h : CallNumber} {args : CallArgs} {i : Instr} :
    decodeCall h args = .ok i ↔ i.encoding = .call h args ∧ i.wf = true := by
  constructor
  · intro hd
    unfold decodeCall at hd
    split at hd
    case h_7 hn =>
      split at hd
      · next hlen =>
        cases hd
        rw [show h = 6 from BitVec.eq_of_toNat_eq hn]
        exact ⟨rfl, beq_iff_eq.2 hlen⟩
      · contradiction
    case h_8 | h_9 => contradiction
    all_goals
      next hn =>
        cases hd
        exact ⟨congrArg (Encoding.call · _) (BitVec.eq_of_toNat_eq hn.symm), rfl⟩
  · rintro ⟨he, hwf⟩
    cases i with
    | load b => cases he; exact if_pos (beq_iff_eq.1 hwf)
    | reset | run | endframe | nextirq | apply | save => cases he; rfl
    | _ => contradiction

/-! ### The decoder and the encoder undo each other -/

/-- Settles O2: the encoded write is at an address of its region (R92), so the region and the admitted latch decode it; a
host call is decoded by its number and arguments. -/
theorem decodeOfEncodeIsTheInstruction : Obligations.DecodeOfEncodeIsTheInstruction := by
  intro c latch i hc hi hadmits
  rw [encode]
  cases he : i.encoding with
  | write r l t v =>
    rw [he] at hadmits
    rw [Encoding.request, decode_write, region_regionFirst hc, ← getD_of_admits hadmits, decodeWrite_of_encoding he]
  | call h args => exact decodeCall_eq_ok.2 ⟨he, hi⟩

/-- Settles O3: a write's operation is encoded at the first address of the write's region, and a call as itself. -/
theorem encodeOfDecodeIsTheRequest : Obligations.EncodeOfDecodeIsTheRequest := by
  intro c latch r i hc hdec
  cases r with
  | write t a v =>
    rw [decode_write, Except.ok.injEq] at hdec
    obtain ⟨l, he, hadmits⟩ := encoding_decodeWrite (region c a) latch t v
    rw [hdec] at he
    rw [encode, he]
    exact ⟨wf_of_encoding_write he, hadmits, _, rfl, region_regionFirst hc _⟩
  | call h args =>
    obtain ⟨he, hwf⟩ := decodeCall_eq_ok.1 hdec
    rw [encode, he]
    exact ⟨hwf, rfl, rfl⟩

/-! ### The rows of the opcode table (R84, R87) -/

/-- A key is made of its three fields. -/
theorem makeKey_fields (k : Key) : makeKey (keyRegion k) (keyLatch k) (keyValue k) = k := by
  have hcode (b : BitVec 2) : (Region.ofCode b).code = b := by revert b; decide
  rw [makeKey, keyRegion, hcode]
  calc k.extractLsb' 12 2 ++ k.extractLsb' 8 4 ++ k.extractLsb' 0 8
    _ = k.extractLsb' 8 6 ++ k.extractLsb' 0 8 :=
      congrArg (· ++ _) (BitVec.extractLsb'_append_extractLsb'_eq_extractLsb' rfl)
    _ = k.extractLsb' 0 14 := BitVec.extractLsb'_append_extractLsb'_eq_extractLsb' rfl
    _ = k := BitVec.extractLsb'_eq_self

/-- The mask 0x3F00 keeps the region and the latch. -/
theorem makeKey_mask_latch (r : Region) (l : Latch) (v : Byte) : makeKey r l v &&& 0x3F00 = makeKey r l 0 := by
  apply BitVec.eq_of_getLsbD_eq
  intro i hi
  simp only [makeKey, BitVec.getLsbD_and, BitVec.getLsbD_append]
  interval_cases i <;> simp

/-- No row of the write table reads the written byte. -/
theorem mask_of_mem_writeRows : ∀ row ∈ writeRows, 0x3F00 &&& row.mask = row.mask := by decide

/-- The rows of format `W` that a key belongs to. -/
def rowsOfKey (k : Key) : List (Row 14) := writeRows.filter fun row => k &&& row.mask == row.pattern

/-- The written byte has no part in the choice of the rows. -/
theorem rowsOfKey_makeKey (r : Region) (l : Latch) (v : Byte) :
    rowsOfKey (makeKey r l v) = rowsOfKey (makeKey r l 0) := by
  refine List.filter_congr fun row hrow => ?_
  rw [← makeKey_mask_latch r l v, BitVec.and_assoc, mask_of_mem_writeRows row hrow]

/-- A region and a latch choose one row, that of the operation of a write there: 64 keys to look up. -/
theorem rowsOfKey_mnemonic (r : Region) :
    ∀ l : Latch, (rowsOfKey (makeKey r l 0)).map (·.mnemonic) = [(decodeWrite r l 0 0).mnemonic] := by
  cases r <;> decide

/-- The time and the byte have no part in which operation a write is. -/
theorem mnemonic_decodeWrite (r : Region) (l : Latch) (t : Int) (v : Byte) :
    (decodeWrite r l t v).mnemonic = (decodeWrite r l 0 0).mnemonic := by
  cases r with
  | data =>
    obtain ⟨⟨n, hn⟩⟩ := l
    interval_cases n <;> rfl
  | select | sound | outside => rfl

/-- The call number of a host call chooses one row, that of its operation. -/
theorem callRows_of_encoding {i : Instr} {h : CallNumber} {args : CallArgs} (he : i.encoding = .call h args) :
    (callRows.filter fun row => h &&& row.mask == row.pattern).map (·.mnemonic) = [i.mnemonic] := by
  cases i with
  | reset | run | endframe | nextirq | apply | save | load => cases he; rfl
  | _ => contradiction

/-- A key lies in exactly one row, that of the operation it decodes to. -/
theorem rowsOfKey_eq_decodeKey (k : Key) (t : Int) :
    (rowsOfKey k).map (·.mnemonic) = [(decodeKey k t).mnemonic] := by
  rw [decodeKey, mnemonic_decodeWrite, ← rowsOfKey_mnemonic, ← rowsOfKey_makeKey _ _ (keyValue k), makeKey_fields]

/-- Settles O1: the rows of a key are those of its region and latch, and a call that decodes is an operation's. -/
theorem everyKeyLiesInExactlyTheDecodedRow : Obligations.EveryKeyLiesInExactlyTheDecodedRow :=
  ⟨rowsOfKey_eq_decodeKey, fun _ _ _ hdec => callRows_of_encoding (decodeCall_eq_ok.1 hdec).1,
    fun args => by cases args <;> rfl⟩

/-! ### The delivered table word -/

/-- Bits 11:8 of a table word are the latch of its key (R84). -/
theorem keyLatch_ofNat (w : Nat) : keyLatch (BitVec.ofNat 14 w) = BitVec.ofNat 4 (w / 0x100) := by
  apply BitVec.eq_of_toNat_eq
  rw [keyLatch, BitVec.extractLsb'_toNat, BitVec.toNat_ofNat, BitVec.toNat_ofNat, Nat.shiftRight_eq_div_pow]
  omega

/-- The request of a table word means the word's operation, under the word's latch. -/
theorem decode_wordRequest {c : Config} {nbits w : Nat} {i : Instr} (hc : c.wf = true)
    (h : decodeTableWord nbits w = some i) (latch : Latch) :
    decode c (wordLatch nbits w latch) (wordRequest c nbits w) = .ok i := by
  unfold decodeTableWord at h
  by_cases hcall : nbits ≤ 8
  · rw [if_pos hcall] at h
    rw [wordRequest, if_pos hcall, decode]
    split at h
    · split at h
      · next hok => rw [hok, Option.some.inj h]
      · contradiction
    · contradiction
  · rw [if_neg hcall] at h
    rw [wordRequest, if_neg hcall, wordLatch, if_neg hcall, decode_write, region_regionFirst hc]
    split at h
    · split at h
      · exact congrArg Except.ok (Option.some.inj h)
      · contradiction
    · contradiction

/-- Settles O8: the next request is the word's, decoded under the word's latch, and the requests behind it are those that
were waiting. -/
theorem theDeliveredTableWordIsTheNextOperation : Obligations.TheDeliveredTableWordIsTheNextOperation := by
  intro s nbits w i hc hword
  have hlatch : wordLatch nbits w s.command = if nbits ≤ 8 then s.command else BitVec.ofNat 4 (w / 0x100) := by
    rw [wordLatch, keyLatch_ofNat]
  rw [← hlatch]
  obtain ⟨hruns, -⟩ := stepRunsTheDecodedInstruction
  exact hruns (s.withFetchWord nbits w) _ _ i rfl (decode_wordRequest hc hword s.command)

/-! ### Every write is accepted (R88) -/

/-- The result is a next state, or it is the refusal of a deadline past the host's clock at `t` (R152). -/
def AnswersOrOverflows (t : Int) (x : Result) : Prop :=
  (∃ s', x = .next s') ∨ (¬ clockFits t ∧ ∃ d, x = .refused (.deadlineOverflow d))

theorem arm_answers (t : Int) (s : State) : AnswersOrOverflows t (arm t s) := by
  by_cases hfits : fitsDeadline (t + (s.irqCount.toNat : Int)) = true
  · exact .inl ⟨_, arm_next.2 ⟨hfits, rfl⟩⟩
  · refine .inr ⟨fun hclock => hfits (fitsDeadline_iff.2 ?_), _, if_neg hfits⟩
    have := s.irqCount.isLt
    omega

theorem rearmIfEnabled_answers (t : Int) (s : State) : AnswersOrOverflows t (rearmIfEnabled t s) := by
  rw [rearmIfEnabled]
  split
  · exact arm_answers t s
  · exact .inl ⟨_, rfl⟩

/-- Every write operation is a timed one, at the time of its encoding, whose body answers next unless an arming does not
fit the clock. -/
theorem exec_write_answers {i : Instr} {r : Region} {l : Option Latch} {t : Int} {v : Byte}
    (h : i.encoding = .write r l t v) :
    ∃ k, (∀ s, exec i s = timed t s k) ∧ ∀ s, AnswersOrOverflows t (k s) := by
  cases i with
  | reset | run | endframe | nextirq | apply | save | load => contradiction
  | irqctl =>
    cases h
    refine ⟨_, fun _ => rfl, fun s => ?_⟩
    split
    · exact arm_answers t _
    · exact .inl ⟨_, rfl⟩
  | irqlo | irqhi => cases h; exact ⟨_, fun _ => rfl, fun _ => rearmIfEnabled_answers t _⟩
  | _ => cases h; exact ⟨_, fun _ => rfl, fun _ => .inl ⟨_, rfl⟩⟩

/-- Settles O37: a write decodes to a write operation, whose body neither faults nor, with a clock that fits, refuses. -/
theorem noWriteIsRejectedOrTraps : Obligations.NoWriteIsRejectedOrTraps := by
  intro c latch t a v
  obtain ⟨l, he, -⟩ := encoding_decodeWrite (region c a) latch t v
  obtain ⟨k, hexec, hk⟩ := exec_write_answers he
  refine ⟨_, decode_write c latch t a v, fun s r hfault => ?_, fun s ⟨hreset, ht⟩ hclock => ?_⟩
  · rw [hexec, timed_fault] at hfault
    obtain ⟨-, -, hbody⟩ := hfault
    obtain ⟨s', hnext⟩ | ⟨-, d, hrefused⟩ := hk ((s.setAnswer .nothing).setTLast t)
    · rw [hnext] at hbody; contradiction
    · rw [hrefused] at hbody; contradiction
  · rw [hexec, timed_accepts hreset ht]
    exact (hk _).resolve_right fun ⟨hpast, _⟩ => hpast hclock

/-! ### The map, number by number -/

/-- Settles O4, by running the decoder on each word. -/
theorem wordsOfTheTableDecode : Obligations.WordsOfTheTableDecode := by
  unfold Obligations.WordsOfTheTableDecode
  decide

theorem extractLsb'_eq_iff {w n : Nat} (x : BitVec w) (start : Nat) (y : BitVec n) :
    x.extractLsb' start n = y ↔ x.toNat / 2 ^ start % 2 ^ n = y.toNat := by
  rw [← BitVec.toNat_inj, BitVec.extractLsb'_toNat, Nat.shiftRight_eq_div_pow]

/-- Settles O5: each range of the default parameters is the addresses with those top bits. -/
theorem defaultRegionsByTopAddressBits : Obligations.DefaultRegionsByTopAddressBits := by
  intro a
  have ha := a.isLt
  simp only [region, defaultConfig, extractLsb'_eq_iff]
  refine if_congr ?_ rfl (if_congr ?_ rfl (if_congr ?_ rfl rfl))
  all_goals
    simp only [BitVec.reduceToNat]
    omega

/-- Settles O6: in the data range the latch alone is read. -/
theorem dataWritesAreRoutedByTheLatch : Obligations.DataWritesAreRoutedByTheLatch := by
  intro c t a v hdata
  simp only [decode_write, hdata]
  exact ⟨rfl, rfl, rfl, rfl, rfl, rfl, rfl, rfl, rfl, rfl, rfl, rfl, rfl, rfl, rfl, rfl⟩

/-! ### The ignored bits (R89) -/

/-- The call of the extra-RAM control reads bit 7 in RAM mode and bits 5:0 in bank mode, and the mode bit (R121). -/
theorem wramCall_congr {v w : Byte} (c : Config)
    (h : (v[6] = true ∧ w[6] = true ∧ v[7] = w[7]) ∨
      (v[6] = false ∧ w[6] = false ∧ v.extractLsb' 0 6 = w.extractLsb' 0 6)) : wramCall c v = wramCall c w := by
  obtain ⟨hv, hw, henable⟩ | ⟨hv, hw, hbank⟩ := h
  · simp [wramCall, ramSelect, ramEnable, hv, hw, henable]
  · simp [wramCall, ramSelect, wramBank, hv, hw, hbank]

/-- Settles O12: SEL, MIR and IRQCTL read one field of the byte; WRAM stores it, and its one call is the same. -/
theorem ignoredBitsHaveNoEffect : Obligations.IgnoredBitsHaveNoEffect := by
  intro s t v w
  refine ⟨fun hlatch => ?_, fun hmode => ?_, fun hbit => ?_, fun sv sw hv hw hbits => ?_⟩
  · simp only [exec, execSel, show selLatch v = selLatch w from hlatch]
  · simp only [exec, execMir, show mirMode v = mirMode w from hmode]
  · simp only [exec, execIrqctl, show irqBit v = irqBit w from hbit]
  · obtain ⟨-, -, rfl⟩ := execWram_next.1 hv
    obtain ⟨-, -, rfl⟩ := execWram_next.1 hw
    refine ⟨rfl, rfl, ?_⟩
    simp only [applyReg, regCall_wram, State.setWram_wramControl, State.setWram_cfg, wramCall_congr _ hbits]
    rfl

end Sys2Proof.Machine
end

section
/-! PROOFS. The write dispatch and the bank multiplexer (40_write_dispatch_and_banks.md): what each bank write stores and
programs, that it leaves the timer alone and does not depend on its time, and that every step but LOAD keeps the bus
current. -/

namespace Sys2Proof.Machine

/-! ### A current bus (R128 (c)) -/

/-- The registers that stand for a call: a graphics bank, the RAM control, a program bank or the mirroring mode (R21). -/
theorem register_cases (d : Fin 13) :
    (∃ i : Fin 8, d = i.castLE (by decide)) ∨ d = 8 ∨ (∃ k : Fin 3, d = ⟨9 + k.val, by omega⟩) ∨ d = 12 := by
  by_cases hchr : d.val < 8
  · exact .inl ⟨⟨d.val, hchr⟩, rfl⟩
  by_cases hwram : d.val = 8
  · exact .inr (.inl (Fin.ext hwram))
  by_cases hprg : d.val < 12
  · have hk : d.val = 9 + (d.val - 9) := by omega
    exact .inr (.inr (.inl ⟨⟨d.val - 9, by omega⟩, Fin.ext hk⟩))
  · have hmir : d.val = 12 := by omega
    exact .inr (.inr (.inr (Fin.ext hmir)))

section
variable {s : State} {v : Byte} {d : Fin 13}

/-- A graphics bank has a part in the call of its own register alone. -/
theorem regCall_setChr_of_ne {j : Fin 8} {h : 8 ≤ 13} (hd : d ≠ j.castLE h) :
    (s.setChr j v).regCall d = s.regCall d := by
  obtain ⟨i, rfl⟩ | rfl | ⟨k, rfl⟩ | rfl := register_cases d
  · have hne : j.val ≠ i.val := fun he => hd (Fin.ext he.symm)
    simp [Vector.getElem_set_ne _ _ hne]
  · rfl
  · simp
  · rfl

/-- A program bank has a part in the call of its own register alone. -/
theorem regCall_setPrg_of_ne {j : Fin 3} {h : 9 + j.val < 13} (hd : d ≠ ⟨9 + j.val, h⟩) :
    (s.setPrg j v).regCall d = s.regCall d := by
  obtain ⟨i, rfl⟩ | rfl | ⟨k, rfl⟩ | rfl := register_cases d
  · simp
  · rfl
  · have hne : j.val ≠ k.val := fun he => hd (Fin.ext (congrArg (9 + ·) he.symm))
    simp [Vector.getElem_set_ne _ _ hne]
  · rfl

/-- The RAM control has a part in the call of register 0x8 alone. -/
theorem regCall_setWram_of_ne (hd : d ≠ 8) : (s.setWram v).regCall d = s.regCall d := by
  obtain ⟨i, rfl⟩ | rfl | ⟨k, rfl⟩ | rfl := register_cases d
  · simp
  · contradiction
  · simp
  · rfl

/-- The mirroring mode has a part in the call of register 0xC alone. -/
theorem regCall_setMirroring_of_ne {m : BitVec 2} (hd : d ≠ 12) : (s.setMirroring m).regCall d = s.regCall d := by
  obtain ⟨i, rfl⟩ | rfl | ⟨k, rfl⟩ | rfl := register_cases d
  · simp
  · rfl
  · simp
  · contradiction

end

/-- A store changes at most the call of the register it applies. -/
theorem Stores.busCurrent {v : Byte} {s s' : State} {m : String} (hs : Stores v s m s') (hc : s.cfg.wf = true)
    (h : s.busCurrent = true) : s'.busCurrent = true := by
  cases hs with
  | sel | snd | out => exact h
  | chr j => exact busCurrent_applyReg (s' := s.setChr j v) hc rfl rfl _ (fun _ => regCall_setChr_of_ne) h
  | prg k => exact busCurrent_applyReg (s' := s.setPrg k v) hc rfl rfl _ (fun _ => regCall_setPrg_of_ne) h
  | wram => exact busCurrent_applyReg (s' := s.setWram v) hc rfl rfl 8 (fun _ => regCall_setWram_of_ne) h
  | mir =>
    exact busCurrent_applyReg (s' := s.setMirroring (mirMode v)) hc rfl rfl 12 (fun _ => regCall_setMirroring_of_ne) h

/-- Every operation but LOAD applies the registers it changes, and the timer's operations change none that has a call. -/
theorem exec_keeps_busCurrent {i : Instr} {s s' : State} (h : exec i s = .next s') (hi : ∀ b, i ≠ .load b)
    (hc : s.cfg.wf = true) (hcur : s.busCurrent = true) : s'.busCurrent = true := by
  cases exec_effect h with
  | store _ _ _ hs => exact hs.busCurrent hc hcur
  | enable | disable | count | run | endframe =>
    refine busCurrent_congr ?_ (regCall_congr ?_ ?_ ?_ ?_ ?_) hcur <;> simp
  | reset | apply => exact busCurrent_applyMapping hc
  | nextirq | save => exact hcur
  | load => exact absurd rfl (hi _)

/-- A step that does not deliver the call of LOAD is idle, or runs an operation other than LOAD with its request taken. -/
theorem step_next_of_not_load {s s' : State} (hload : ∀ bs, s.inbox.head? ≠ some (.call 6 (.bytes bs)))
    (hstep : step s = .next s') :
    s' = s ∨ ∃ i, (∀ b, i ≠ .load b) ∧ exec i { s with inbox := s.inbox.tail } = .next s' := by
  obtain ⟨-, h⟩ | ⟨r, rest, i, hin, hdec, h⟩ | ⟨r, rest, e, -, -, h⟩ := step_cases s
  · rw [h, Host.Outcome.next.injEq] at hstep
    exact .inl hstep.symm
  · refine .inr ⟨i, ?_, by rw [hin]; exact h.symm.trans hstep⟩
    rintro b rfl
    exact hload b (by rw [hin, eq_call_of_decode_load hdec]; rfl)
  · rw [h] at hstep
    contradiction

/-- Settles O43: each operation but LOAD keeps the bus current, and APPLY ends in `applyMapping`, which makes it so. -/
theorem everyStepButLoadKeepsTheBusCurrent : Obligations.EveryStepButLoadKeepsTheBusCurrent := by
  constructor
  · intro s s' hc hcur hload hstep
    obtain rfl | ⟨i, hi, hexec⟩ := step_next_of_not_load hload hstep
    · exact hcur
    · exact exec_keeps_busCurrent hexec hi hc hcur
  · intro s s' hc h
    obtain ⟨-, rfl⟩ := execApply_next.1 h
    exact busCurrent_applyMapping hc

/-! ### Writes outside the timer (R128 (a)) -/

/-- `s` with the flags, the countdown and the deadline of `r`, and the last time `t`. -/
def State.withTimer (s r : State) (t : Int) : State :=
  { s with irqEnabled := r.irqEnabled, irqCount := r.irqCount, irqPending := r.irqPending, nextTime := r.nextTime,
           tLast := t }

/-- An update that neither reads nor writes the timer and the last time: it commutes with replacing them. -/
def IgnoresTimer (g : State → State) : Prop :=
  ∀ (s r : State) (t : Int), g (s.withTimer r t) = (g s).withTimer r t

theorem ignoresTimer_id : IgnoresTimer id := fun _ _ _ => rfl

theorem ignoresTimer_setCommand (l : Latch) : IgnoresTimer (State.setCommand · l) := fun _ _ _ => rfl

theorem ignoresTimer_setChr (i : Fin 8) (v : Byte) : IgnoresTimer (State.setChr · i v) := fun _ _ _ => rfl

theorem ignoresTimer_setPrg (k : Fin 3) (v : Byte) : IgnoresTimer (State.setPrg · k v) := fun _ _ _ => rfl

theorem ignoresTimer_setWram (v : Byte) : IgnoresTimer (State.setWram · v) := fun _ _ _ => rfl

theorem ignoresTimer_setMirroring (m : BitVec 2) : IgnoresTimer (State.setMirroring · m) := fun _ _ _ => rfl

theorem ignoresTimer_applyReg (c : Fin 13) : IgnoresTimer (applyReg c) := fun _ _ _ => rfl

theorem IgnoresTimer.comp {f g : State → State} (hf : IgnoresTimer f) (hg : IgnoresTimer g) :
    IgnoresTimer fun s => f (g s) := by
  intro s r t
  exact (congrArg f (hg s r t)).trans (hf (g s) r t)

/-- Two writes of one byte at two times leave states that differ in the last time alone, and the timer as it was. -/
def LeavesTimer (f : Int → Byte → Instr) : Prop :=
  ∀ (s s₁ s₂ : State) (t₁ t₂ : Int) (v : Byte), exec (f t₁ v) s = .next s₁ → exec (f t₂ v) s = .next s₂ →
    { s₁ with tLast := t₂ } = s₂ ∧
    s₁.irqEnabled = s.irqEnabled ∧ s₁.irqCount = s.irqCount ∧ s₁.irqPending = s.irqPending ∧ s₁.nextTime = s.nextTime

/-- The write at `t` leaves what its body makes of `s` without a time, with the timer of `s` and the last time `t`. -/
theorem leavesTimer_of_ignoresTimer {f : Int → Byte → Instr} {g : Byte → State → State} (hg : ∀ v, IgnoresTimer (g v))
    (hf : ∀ {t v s s'}, exec (f t v) s = .next s' ↔ s.resetDone = true ∧ s.tLast ≤ t ∧ s' = g v (s.at t)) :
    LeavesTimer f := by
  intro s s₁ s₂ t₁ t₂ v h₁ h₂
  have hleft {t : Int} {s' : State} (h : exec (f t v) s = .next s') :
      s' = (g v (s.setAnswer .nothing)).withTimer s t := by
    obtain ⟨-, -, hs'⟩ := hf.1 h
    exact hs'.trans (hg v (s.setAnswer .nothing) s t)
  rw [hleft h₁, hleft h₂]
  exact ⟨rfl, rfl, rfl, rfl, rfl⟩

/-- A write that stores a register and applies the register `c`. -/
theorem leavesTimer_of_applies {f : Int → Byte → Instr} {g : Byte → State → State} (c : Fin 13)
    (hg : ∀ v, IgnoresTimer (g v))
    (hf : ∀ {t v s s'}, exec (f t v) s = .next s' ↔
      s.resetDone = true ∧ s.tLast ≤ t ∧ s' = applyReg c (g v (s.at t))) : LeavesTimer f :=
  leavesTimer_of_ignoresTimer (fun v => (ignoresTimer_applyReg c).comp (hg v)) hf

/-- Settles O17: SEL stores the latch, each bank write and MIR stores one register and applies it, and SND and OUT store
nothing; none of this reads or writes the timer. -/
theorem bankWritesDoNotDependOnTimeAndLeaveTheTimer : Obligations.BankWritesDoNotDependOnTimeAndLeaveTheTimer := by
  change ∀ f ∈ _, LeavesTimer f
  simp only [List.forall_mem_cons, List.not_mem_nil, false_imp_iff, implies_true, and_true]
  exact ⟨leavesTimer_of_ignoresTimer (fun v => ignoresTimer_setCommand (selLatch v)) execSel_next,
    leavesTimer_of_applies 0 (ignoresTimer_setChr 0) execChr0_next,
    leavesTimer_of_applies 1 (ignoresTimer_setChr 1) execChr1_next,
    leavesTimer_of_applies 2 (ignoresTimer_setChr 2) execChr2_next,
    leavesTimer_of_applies 3 (ignoresTimer_setChr 3) execChr3_next,
    leavesTimer_of_applies 4 (ignoresTimer_setChr 4) execChr4_next,
    leavesTimer_of_applies 5 (ignoresTimer_setChr 5) execChr5_next,
    leavesTimer_of_applies 6 (ignoresTimer_setChr 6) execChr6_next,
    leavesTimer_of_applies 7 (ignoresTimer_setChr 7) execChr7_next,
    leavesTimer_of_applies 8 ignoresTimer_setWram execWram_next,
    leavesTimer_of_applies 9 (ignoresTimer_setPrg 0) execPrg0_next,
    leavesTimer_of_applies 10 (ignoresTimer_setPrg 1) execPrg1_next,
    leavesTimer_of_applies 11 (ignoresTimer_setPrg 2) execPrg2_next,
    leavesTimer_of_applies 12 (fun v => ignoresTimer_setMirroring (mirMode v)) execMir_next,
    leavesTimer_of_ignoresTimer (fun _ => ignoresTimer_id) execSnd_next,
    leavesTimer_of_ignoresTimer (fun _ => ignoresTimer_id) execOut_next⟩

/-! ### The command latch and the ignored writes -/

/-- A key decodes by its region and its latch (R84, R87). -/
theorem decodeKey_makeKey (r : Region) (l : Latch) (t : Int) (v : Byte) :
    decodeKey (makeKey r l v) t = decodeWrite r l t v := by
  rw [decodeKey, keyRegion_makeKey, keyLatch_makeKey, keyValue_makeKey]

/-- A write to an address of a region decodes by that region and the latch. -/
theorem decode_write_of_region {c : Config} {a : Addr} {r : Region} (h : region c a = r) (l : Latch) (t : Int)
    (v : Byte) : decode c l (.write t a v) = .ok (decodeWrite r l t v) := by
  rw [decode_write, h]

/-- Settles O9, from what SEL leaves. -/
theorem selLoadsTheLatch : Obligations.SelLoadsTheLatch :=
  ⟨decodeKey_makeKey .select,
    fun _ l t _ v hregion => decode_write_of_region hregion l t v,
    fun _ _ _ ⟨hreset, ht⟩ => execSel_next.2 ⟨hreset, ht, rfl⟩,
    decode_write_of_region (show region defaultConfig 0x8000 = .select by decide) 0x0 5 0x1C, by decide⟩

/-- Settles O10, from what SND leaves. -/
theorem soundWritesAreAcceptedAndIgnored : Obligations.SoundWritesAreAcceptedAndIgnored :=
  ⟨decodeKey_makeKey .sound,
    fun _ l t _ v hregion => decode_write_of_region hregion l t v,
    fun _ _ _ ⟨hreset, ht⟩ => execSnd_next.2 ⟨hreset, ht, rfl⟩,
    fun l => ⟨decode_write_of_region (show region defaultConfig 0xC000 = .sound by decide) l 7 0x0F,
      decode_write_of_region (show region defaultConfig 0xE000 = .sound by decide) l 7 0x3F⟩⟩

/-- Settles O11, from what OUT leaves. -/
theorem outsideWritesChangeNothing : Obligations.OutsideWritesChangeNothing :=
  ⟨decodeKey_makeKey .outside,
    fun _ l t _ v hregion => decode_write_of_region hregion l t v,
    fun _ _ _ ⟨hreset, ht⟩ => execOut_next.2 ⟨hreset, ht, rfl⟩⟩

/-! ### The bank writes -/

/-- Settles O13, from what a graphics-bank write leaves, for each of the eight latches. -/
theorem graphicsBankWritesStoreAndProgramTheWindow : Obligations.GraphicsBankWritesStoreAndProgramTheWindow :=
  fun _ t v ⟨hreset, ht⟩ =>
    ⟨⟨decodeKey_makeKey .data 0x0 t v, chrWrite_next.2 ⟨hreset, ht, rfl⟩⟩,
      ⟨decodeKey_makeKey .data 0x1 t v, chrWrite_next.2 ⟨hreset, ht, rfl⟩⟩,
      ⟨decodeKey_makeKey .data 0x2 t v, chrWrite_next.2 ⟨hreset, ht, rfl⟩⟩,
      ⟨decodeKey_makeKey .data 0x3 t v, chrWrite_next.2 ⟨hreset, ht, rfl⟩⟩,
      ⟨decodeKey_makeKey .data 0x4 t v, chrWrite_next.2 ⟨hreset, ht, rfl⟩⟩,
      ⟨decodeKey_makeKey .data 0x5 t v, chrWrite_next.2 ⟨hreset, ht, rfl⟩⟩,
      ⟨decodeKey_makeKey .data 0x6 t v, chrWrite_next.2 ⟨hreset, ht, rfl⟩⟩,
      ⟨decodeKey_makeKey .data 0x7 t v, chrWrite_next.2 ⟨hreset, ht, rfl⟩⟩⟩

/-- Settles O15, from what a program-bank write leaves, for each of the three latches. -/
theorem programBankWritesStoreAndProgramTheWindow : Obligations.ProgramBankWritesStoreAndProgramTheWindow :=
  fun _ t v ⟨hreset, ht⟩ =>
    ⟨⟨decodeKey_makeKey .data 0x9 t v, prgWrite_next.2 ⟨hreset, ht, rfl⟩⟩,
      ⟨decodeKey_makeKey .data 0xA t v, prgWrite_next.2 ⟨hreset, ht, rfl⟩⟩,
      ⟨decodeKey_makeKey .data 0xB t v, prgWrite_next.2 ⟨hreset, ht, rfl⟩⟩, rfl⟩

/-- The call of the extra-RAM control in RAM mode (R121). -/
theorem wramCall_ram {v : Byte} (c : Config) (h : v[6] = true) : wramCall c v = .enableExtraRam v[7] := if_pos h

/-- The call of the extra-RAM control in bank mode (R121). -/
theorem wramCall_bank {v : Byte} (c : Config) (h : v[6] = false) :
    wramCall c v = .setProgramBank c.wramBase .kib8 (.idx (wramBank v)) :=
  if_neg (Bool.eq_false_iff.1 h)

/-- WRAM completes under the obligations: it stores the byte and makes the call of its mode (R120). -/
theorem execWram_accepts {s : State} {t : Int} (h : s.accepts t) (v : Byte) :
    exec (.wram t v) s = .next { s with
      wramControl := v, tLast := t, answer := .nothing, trace := s.trace ++ [wramCall s.cfg v] } :=
  execWram_next.2 ⟨h.1, h.2, rfl⟩

/-- Settles O14: the one call is that of the mode bit 6 selects. -/
theorem wramWriteStoresTheByteAndMakesTheCallOfItsMode :
    Obligations.WramWriteStoresTheByteAndMakesTheCallOfItsMode := by
  intro s t v haccepts
  refine ⟨decodeKey_makeKey .data 0x8 t v, fun hram => ?_, fun hbank => ?_⟩
  · rw [execWram_accepts haccepts, wramCall_ram _ hram]
  · rw [execWram_accepts haccepts, wramCall_bank _ hbank]
    rfl

end Sys2Proof.Machine
end

section
/-! PROOFS. The nametable mirroring (41_mirroring.md): what MIR stores and calls, that the bus then holds the arrangement
of the stored mode, and that the decoder as a circuit chooses the nametable this arrangement shows. -/

namespace Sys2Proof.Machine

/-! ### The mode (R25) -/

theorem mode_cases : ∀ m : BitVec 2, m = 0 ∨ m = 1 ∨ m = 2 ∨ m = 3 := by decide

@[simp] theorem mirSingle_mirMode (v : Byte) : mirSingle (mirMode v) = v[1] := by
  simp [mirSingle, mirMode]

@[simp] theorem mirSel_mirMode (v : Byte) : mirSel (mirMode v) = v[0] := by
  simp [mirSel, mirMode]

/-! ### The mirroring write (R140, R141) -/

/-- MIR completes under the obligations: it stores the mode and makes the call of that mode. -/
theorem execMir_accepts {s : State} {t : Int} (h : s.accepts t) (v : Byte) :
    exec (.mir t v) s = .next { s with
      mirroring := mirMode v, tLast := t, answer := .nothing, trace := s.trace ++ [mirrorCall (mirMode v)] } :=
  execMir_next.2 ⟨h.1, h.2, rfl⟩

/-- Settles O16: the bits that choose the call of the stored mode are bits 1 and 0 of the byte. -/
theorem mirWriteStoresTheModeAndSetsTheArrangement : Obligations.MirWriteStoresTheModeAndSetsTheArrangement := by
  intro s t v haccepts
  refine ⟨decodeKey_makeKey .data 0xC t v, ?_⟩
  rw [execMir_accepts haccepts, mirrorCall, mirSingle_mirMode, mirSel_mirMode]
  rfl

/-! ### The arrangement on the bus (R141, R142) -/

/-- What the call of the stored mode says is the arrangement of that mode. -/
theorem holds_mirrorCall_iff (v : BusView) (s : State) :
    v.holds (mirrorCall s.mirroring) ↔ v.mirror = some s.arrangement := by
  obtain h | h | h | h := mode_cases s.mirroring <;> rw [State.arrangement, h] <;> rfl

/-- Applying register 0xC puts the arrangement of the stored mode on the bus. -/
theorem mirror_applyReg_mir (s : State) : (applyReg 12 s).bus.mirror = some s.arrangement := by
  rw [applyReg, State.bus_emit, regCall_mir, ← holds_mirrorCall_iff]
  exact BusView.holds_apply _ _

/-! ### The decoder (R142, R143) -/

/-- The vertical arrangement is chosen by the low bit of the logical nametable's number. -/
theorem shows_vertical : ∀ n : BitVec 2, Arrangement.vertical.shows n.toFin = if n[0] = true then .b else .a := by decide

/-- The horizontal arrangement is chosen by the high bit of the logical nametable's number. -/
theorem shows_horizontal : ∀ n : BitVec 2, Arrangement.horizontal.shows n.toFin = if n[1] = true then .b else .a := by
  decide

/-- In each mode the circuit passes the bit that chooses the arrangement's nametable: address bit 10, address bit 11, or
a constant. -/
theorem shows_arrangement (s : State) (a : BitVec 14) :
    s.arrangement.shows (a.extractLsb' 10 2).toFin = if s.nametableBit a = true then .b else .a := by
  obtain h | h | h | h := mode_cases s.mirroring <;> rw [State.arrangement, State.nametableBit, h]
  · exact (shows_vertical _).trans (by rw [BitVec.getElem_extractLsb']; rfl)
  · exact (shows_horizontal _).trans (by rw [BitVec.getElem_extractLsb']; rfl)
  · rfl
  · rfl

/-- Settles O53, from what MIR leaves and the circuit mode by mode. -/
theorem mirroringDecoderShowsTheArrangementOfTheMode : Obligations.MirroringDecoderShowsTheArrangementOfTheMode := by
  refine ⟨fun s s' t v h => ?_, shows_arrangement⟩
  obtain ⟨-, -, rfl⟩ := execMir_next.1 h
  exact mirror_applyReg_mir _

end Sys2Proof.Machine
end

section
/-! PROOFS. The IRQ timer (42_irq_timer.md): what its six operations leave, that an armed timer expires after exactly its
countdown, what the query says of the interrupt line, and that the lazy timer is a counter that counts every cycle. -/

namespace Sys2Proof.Machine

/-! ### Advancing (R158) -/

/-- An advance to a later time does not see an advance on the way (R158). -/
theorem advance_advance {e₁ e₂ : Int} (h : e₁ ≤ e₂) (s : State) : advance e₂ (advance e₁ s) = advance e₂ s := by
  obtain ⟨-, ha⟩ | ⟨he, hd, ha⟩ | ⟨he, -, ha⟩ := advance_cases e₁ s
  · rw [ha]
  · rw [ha, advance_disabled (State.expire_irqEnabled s), advance_expired he (hd.trans h)]
  · have he' : (s.setCount (BitVec.ofInt 16 (s.deadline - e₁))).irqEnabled = true := he
    rw [ha]
    obtain hd | hd := le_or_gt s.deadline e₂
    · rw [advance_expired he hd]; exact advance_expired he' hd
    · rw [advance_running he hd]; exact advance_running he' hd

/-- Settles O20, because the advances compose. -/
theorem runningTwiceIsRunningToTheLaterTime : Obligations.RunningTwiceIsRunningToTheLaterTime := by
  intro s s₁ e₁ e₂ hle h
  obtain ⟨hreset, ht, rfl⟩ := execRun_next.1 h
  have hlater : exec (.run e₂) s = .next (advance e₂ (s.at e₂)) := execRun_next.2 ⟨hreset, ht.trans hle, rfl⟩
  rw [hlater, execRun_next]
  refine ⟨by simp [hreset], by simpa using hle, ?_⟩
  simp only [advance_at, advance_advance hle]
  rfl

/-! ### The meanings under the caller's obligations -/

/-- Settles O19: the three cases of an advance. -/
theorem runAdvancesTheTimer : Obligations.RunAdvancesTheTimer := by
  intro s e ⟨hreset, ht⟩
  refine ⟨fun he => ?_, fun he hd => ?_, fun he hd => ?_⟩
  · exact execRun_next.2 ⟨hreset, ht, (advance_disabled (s := s.at e) he).symm⟩
  · exact execRun_next.2 ⟨hreset, ht, (advance_expired (s := s.at e) he hd).symm⟩
  · exact execRun_next.2 ⟨hreset, ht, (advance_running (s := s.at e) he hd).symm⟩

/-- A deadline that does not fit signed 32 bits is refused (R152, U9). -/
theorem storeDeadline_refused {d : Int} (h : ¬ (-2 ^ 31 ≤ d ∧ d ≤ 2 ^ 31 - 1)) (s : State) :
    storeDeadline d s = .refused (.deadlineOverflow d) :=
  if_neg fun hfits => h (fitsDeadline_iff.1 hfits)

/-- Settles O21: IRQCTL arms or disables the advanced timer, and arming is storing the deadline. -/
theorem irqControlWriteEnablesOrDisables : Obligations.IrqControlWriteEnablesOrDisables := by
  intro s t v ⟨hreset, ht⟩ a d
  refine ⟨decodeKey_makeKey .data 0xD t v, fun hv => ?_, fun hv hlo hhi => ?_, fun hv hover => ?_⟩
  · exact execIrqctl_next.2 ⟨hreset, ht, .inr ⟨hv, rfl⟩⟩
  · exact execIrqctl_next.2 ⟨hreset, ht, .inl ⟨hv, arm_next.2 ⟨fitsDeadline_iff.2 ⟨hlo, hhi⟩, rfl⟩⟩⟩
  · calc exec (.irqctl t v) s = arm t (a.setEnabled true) := (timed_accepts hreset ht).trans (if_pos hv)
      _ = .refused (.deadlineOverflow d) := storeDeadline_refused hover _

/-- The end of a countdown write on a disabled timer (R154, R155). -/
theorem rearmIfEnabled_disabled {t : Int} {s : State} (h : s.irqEnabled = false) : rearmIfEnabled t s = .next s :=
  if_neg (Bool.eq_false_iff.1 h)

/-- The end of a countdown write that leaves `c` in an enabled timer: the new deadline is stored or refused (R152). -/
theorem rearmIfEnabled_enabled {a : State} (t : Int) (c : BitVec 16) (h : a.irqEnabled = true) :
    (-2 ^ 31 ≤ t + (c.toNat : Int) ∧ t + (c.toNat : Int) ≤ 2 ^ 31 - 1 →
      rearmIfEnabled t (a.setCount c) = .next ((a.setCount c).setNextTime (BitVec.ofInt 32 (t + c.toNat)))) ∧
    (¬ (-2 ^ 31 ≤ t + (c.toNat : Int) ∧ t + (c.toNat : Int) ≤ 2 ^ 31 - 1) →
      rearmIfEnabled t (a.setCount c) = .refused (.deadlineOverflow (t + c.toNat))) :=
  have harm : rearmIfEnabled t (a.setCount c) = storeDeadline (t + c.toNat) (a.setCount c) := if_pos h
  ⟨fun hfits => harm.trans (storeDeadline_next.2 ⟨fitsDeadline_iff.2 hfits, rfl⟩),
    fun hover => harm.trans (storeDeadline_refused hover _)⟩

/-- IRQLO under the obligations is its end, on the advanced timer (R154). -/
theorem execIrqlo_accepts {s : State} {t : Int} (h : s.accepts t) (v : Byte) :
    exec (.irqlo t v) s =
      rearmIfEnabled t ((advance t (s.at t)).setCount (withLow (advance t (s.at t)).irqCount v)) :=
  timed_accepts h.1 h.2

/-- IRQHI under the obligations is its end, on the advanced timer (R155). -/
theorem execIrqhi_accepts {s : State} {t : Int} (h : s.accepts t) (v : Byte) :
    exec (.irqhi t v) s =
      rearmIfEnabled t ((advance t (s.at t)).setCount (withHigh (advance t (s.at t)).irqCount v)) :=
  timed_accepts h.1 h.2

/-- Settles O22: each write is its end on the advanced timer, with one byte of the countdown replaced. -/
theorem countdownByteWritesReplaceOneByteAndRearm : Obligations.CountdownByteWritesReplaceOneByteAndRearm := by
  intro s t v haccepts a lo hi fits
  have hlo : exec (.irqlo t v) s = rearmIfEnabled t (a.setCount lo) := execIrqlo_accepts haccepts v
  have hhi : exec (.irqhi t v) s = rearmIfEnabled t (a.setCount hi) := execIrqhi_accepts haccepts v
  refine ⟨decodeKey_makeKey .data 0xE t v, decodeKey_makeKey .data 0xF t v, fun he => ?_, fun he => ?_⟩
  · exact ⟨hlo.trans (rearmIfEnabled_disabled he), hhi.trans (rearmIfEnabled_disabled he)⟩
  · rw [hlo, hhi]
    obtain ⟨hloFits, hloOver⟩ := rearmIfEnabled_enabled t lo he
    obtain ⟨hhiFits, hhiOver⟩ := rearmIfEnabled_enabled t hi he
    exact ⟨hloFits, hloOver, hhiFits, hhiOver⟩

/-- A deadline rebased by a time that is not negative and lies before it fits signed 32 bits, as the deadline does
(R160). -/
theorem fitsDeadline_rebased {s : State} {e : Int} (h0 : 0 ≤ e) (hd : e < s.deadline) :
    fitsDeadline (s.deadline - e) = true := by
  have hlt : s.deadline < 2147483648 := BitVec.toInt_lt
  rw [fitsDeadline_iff]
  omega

/-- Settles O23: the three cases of an advance, of which only the last leaves something to rebase. -/
theorem endFrameAdvancesAndRebases : Obligations.EndFrameAdvancesAndRebases := by
  intro s e ⟨hreset, ht⟩ h0
  refine ⟨fun he => ?_, fun he hd => ?_, fun he hd => ?_⟩
  · refine execEndframe_next.2 ⟨hreset, ht, ?_⟩
    rw [advance_disabled (s := s.at e) he]
    exact rebase_next.2 (.inr ⟨he, rfl⟩)
  · refine execEndframe_next.2 ⟨hreset, ht, ?_⟩
    rw [advance_expired (s := s.at e) he hd]
    exact rebase_next.2 (.inr ⟨rfl, rfl⟩)
  · have hfits : fitsDeadline (s.nextTime.toInt - e) = true := fitsDeadline_rebased (h0.trans ht) hd
    have hread := toInt_ofInt_of_fits hfits
    refine ⟨execEndframe_next.2 ⟨hreset, ht, ?_⟩, by omega, hread⟩
    rw [advance_running (s := s.at e) he hd]
    exact rebase_next.2 (.inl ⟨he, Int.sub_nonneg_of_le hd.le, storeDeadline_next.2 ⟨hfits, rfl⟩⟩)

/-! ### The query and the interrupt line (R162, R163) -/

section
variable {s : State} (x : Int)

theorem nextIrq_pending (h : s.irqPending = true) : s.nextIrq x = some x := by
  simp [State.nextIrq, h]

theorem nextIrq_armed (h : s.irqPending = false) (he : s.irqEnabled = true) : s.nextIrq x = some s.deadline := by
  simp [State.nextIrq, h, he]

theorem nextIrq_disabled (h : s.irqPending = false) (he : s.irqEnabled = false) : s.nextIrq x = none := by
  simp [State.nextIrq, h, he]

end

/-- Settles O24, from the three answers of the query. -/
theorem nextIrqAnswersPresentDeadlineOrNone : Obligations.NextIrqAnswersPresentDeadlineOrNone := by
  intro s x hreset
  have hanswer {y : Option Int} (h : s.nextIrq x = y) :
      exec (.nextirq x) s = .next { s with answer := .time y } := execNextirq_next.2 ⟨hreset, by rw [h]; rfl⟩
  exact ⟨fun h => hanswer (nextIrq_pending x h), fun h he => hanswer (nextIrq_armed x h he),
    fun h he => hanswer (nextIrq_disabled x h he)⟩

/-- Settles O25: the line is high at every time, from the deadline on, or never, as the two flags say. -/
theorem theAnswerOfNextIrqTellsTheLine : Obligations.TheAnswerOfNextIrqTellsTheLine := by
  intro s x
  cases hp : s.irqPending with
  | true => simp +contextual [nextIrq_pending x hp, State.irqLine, hp]
  | false =>
    cases he : s.irqEnabled with
    | true => simp [nextIrq_armed x hp he, State.irqLine, hp, he]
    | false => simp [nextIrq_disabled x hp he, State.irqLine, hp, he]

/-! ### No fault (R160, R200) -/

/-- The timer after an advance is never late, so its rebasing does not fault (R160). -/
theorem execEndframe_not_fault (t : Int) (s : State) (r : Fault) : exec (.endframe t) s ≠ .fault r := by
  intro h
  obtain ⟨-, -, h⟩ := timed_fault.1 h
  obtain ⟨he, hneg, -⟩ := rebase_fault.1 h
  have hahead : t < (s.at t).deadline := lt_deadline_of_advance_enabled he
  have hkept : (advance t (s.at t)).deadline = (s.at t).deadline := advance_deadline t (s.at t)
  change (advance t (s.at t)).deadline - t < 0 at hneg
  omega

/-- A write operation answers next or is refused. -/
theorem exec_write_not_fault {i : Instr} {r : Region} {l : Option Latch} {t : Int} {v : Byte}
    (h : i.encoding = .write r l t v) (s : State) (f : Fault) : exec i s ≠ .fault f := by
  intro hfault
  obtain ⟨k, hexec, hk⟩ := exec_write_answers h
  obtain ⟨-, -, hbody⟩ := timed_fault.1 ((hexec s).symm.trans hfault)
  obtain ⟨s', hnext⟩ | ⟨-, d, hrefused⟩ := hk ((s.setAnswer .nothing).setTLast t)
  · rw [hnext] at hbody; contradiction
  · rw [hrefused] at hbody; contradiction

/-- A host call whose body always answers next does not fault. -/
theorem afterReset_const_not_fault {s : State} {f : State → State} {r : Fault} :
    afterReset s (fun s => .next (f s)) ≠ .fault r := by
  simp [afterReset_fault]

/-- A timed operation whose body always answers next does not fault. -/
theorem timed_const_not_fault {t : Int} {s : State} {f : State → State} {r : Fault} :
    timed t s (fun s => .next (f s)) ≠ .fault r := by
  simp [timed_fault]

/-- Every operation but ENDFRAME ends in no fault by its shape, and ENDFRAME by the advance before its rebasing. -/
theorem exec_not_fault (i : Instr) (s : State) (r : Fault) : exec i s ≠ .fault r := by
  cases i with
  | reset => nofun
  | run => exact timed_const_not_fault
  | endframe t => exact execEndframe_not_fault t s r
  | nextirq | apply | save => rw [exec]; exact afterReset_const_not_fault
  | load b =>
    rw [exec, execLoad, ne_eq, afterReset_fault]
    rintro ⟨-, hbody⟩
    split at hbody <;> contradiction
  | _ => exact exec_write_not_fault rfl s r

/-- Settles O38: no operation faults, and a step idles, runs one or refuses. -/
theorem noOperationRaisesContractFailure : Obligations.NoOperationRaisesContractFailure := by
  refine ⟨exec_not_fault, fun s r => ?_⟩
  obtain ⟨-, h⟩ | ⟨_, _, i, -, -, h⟩ | ⟨_, _, _, -, -, h⟩ := step_cases s <;> rw [h]
  · nofun
  · exact exec_not_fault i _ r
  · nofun

/-! ### What the IRQ writes leave (R153 to R156) -/

section
variable {s s' : State} {t : Int} {v : Byte}

/-- An enable arms the advanced timer with its countdown (R153). -/
theorem irqctl_enable_leaves (hv : v[0] = true) (h : exec (.irqctl t v) s = .next s') :
    ∃ d : BitVec 32, d.toInt = t + ((advance t s).irqCount.toNat : Int) ∧
      s' = (((advance t s).at t).setEnabled true).setNextTime d := by
  obtain ⟨-, -, ⟨-, ha⟩ | ⟨hv', -⟩⟩ := execIrqctl_next.1 h
  · rw [advance_at] at ha
    exact storeDeadline_leaves ha
  · exact absurd (hv.symm.trans hv') (by decide)

/-- A disable stops the advanced timer and clears pending (R153). -/
theorem irqctl_disable_leaves (hv : v[0] = false) (h : exec (.irqctl t v) s = .next s') :
    s' = (((advance t s).at t).setEnabled false).setPending false := by
  obtain ⟨-, -, ⟨hv', -⟩ | ⟨-, rfl⟩⟩ := execIrqctl_next.1 h
  · exact absurd (hv.symm.trans hv') (by decide)
  · rw [advance_at]

/-- IRQLO replaces the low byte of the advanced timer's countdown and arms it while enabled (R154). -/
theorem irqlo_leaves (h : exec (.irqlo t v) s = .next s') :
    ∃ d, NewDeadline (advance t s) (t + ((withLow (advance t s).irqCount v).toNat : Int)) d ∧
      s' = (((advance t s).at t).setCount (withLow (advance t s).irqCount v)).setNextTime d := by
  obtain ⟨-, -, ha⟩ := execIrqlo_next.1 h
  rw [advance_at] at ha
  exact rearmIfEnabled_leaves ha

/-- IRQHI replaces the high byte of the advanced timer's countdown and arms it while enabled (R155). -/
theorem irqhi_leaves (h : exec (.irqhi t v) s = .next s') :
    ∃ d, NewDeadline (advance t s) (t + ((withHigh (advance t s).irqCount v).toNat : Int)) d ∧
      s' = (((advance t s).at t).setCount (withHigh (advance t s).irqCount v)).setNextTime d := by
  obtain ⟨-, -, ha⟩ := execIrqhi_next.1 h
  rw [advance_at] at ha
  exact rearmIfEnabled_leaves ha

end

/-! ### Arming (R152, R165) -/

/-- An arming write: IRQCTL with bit 0 set, or a countdown write to a timer that is enabled at the write's time, with
the countdown `c` it arms with (R153 to R156). -/
def Arms (s : State) (t : Int) (v : Byte) (i : Instr) (c : BitVec 16) : Prop :=
  (i = .irqctl t v ∧ v[0] = true ∧ c = (advance t s).irqCount) ∨
    (i = .irqlo t v ∧ (advance t s).irqEnabled = true ∧ c = withLow (advance t s).irqCount v) ∨
    (i = .irqhi t v ∧ (advance t s).irqEnabled = true ∧ c = withHigh (advance t s).irqCount v)

/-- What an arming write at `t` with countdown `c` leaves: the timer runs and its deadline lies `c` cycles past the
write. -/
theorem Arms.leaves {s s₁ : State} {t : Int} {v : Byte} {i : Instr} {c : BitVec 16} (ha : Arms s t v i c)
    (h : exec i s = .next s₁) :
    s₁.tLast = t ∧ s₁.irqEnabled = true ∧ s₁.deadline = t + (c.toNat : Int) ∧
      s₁.irqPending = (advance t s).irqPending := by
  obtain ⟨rfl, hv, rfl⟩ | ⟨rfl, he, rfl⟩ | ⟨rfl, he, rfl⟩ := ha
  · obtain ⟨d, hd, rfl⟩ := irqctl_enable_leaves hv h
    exact ⟨rfl, rfl, hd, rfl⟩
  · obtain ⟨d, hd, rfl⟩ := irqlo_leaves h
    exact ⟨rfl, he, hd.toInt he, rfl⟩
  · obtain ⟨d, hd, rfl⟩ := irqhi_leaves h
    exact ⟨rfl, he, hd.toInt he, rfl⟩

/-- An operation that answers next leaves a chip that has been reset (R37). -/
theorem resetDone_of_exec {i : Instr} {s s' : State} (h : exec i s = .next s') : s'.resetDone = true := by
  obtain ⟨-, -, hreset, -⟩ := theTimeBookkeepingOfEveryOperation i s s' h
  exact hreset

/-- Settles O26: after the write the deadline is `t + c`, so running to it expires the timer, and running to the cycle
before it leaves one cycle in the countdown. -/
theorem armedTimerExpiresAfterExactlyItsCountdown : Obligations.ArmedTimerExpiresAfterExactlyItsCountdown := by
  intro s s₁ t v i c a harms h
  have hreset := resetDone_of_exec h
  obtain ⟨ht, he, hd, hp⟩ := Arms.leaves harms h
  refine ⟨⟨_, execRun_next.2 ⟨hreset, by omega, rfl⟩, ?_⟩, fun hc => ⟨_, execRun_next.2 ⟨hreset, by omega, rfl⟩, ?_⟩⟩
  · rw [advance_expired (s := s₁.at _) he hd.le]
    exact ⟨rfl, rfl, rfl⟩
  · have hone : s₁.deadline - (t + c.toNat - 1) = 1 := by omega
    rw [advance_running (s := s₁.at _) he (by rw [State.at_deadline]; omega)]
    exact ⟨hp, he, congrArg (BitVec.ofInt 16) hone⟩

/-! ### Writes that change nothing (R157) -/

/-- An arming of a running timer within its bound with the countdown it has at the time leaves the deadline. -/
theorem Arms.nextTime {s s' : State} {t : Int} {v : Byte} {i : Instr} (ha : Arms s t v i (advance t s).irqCount)
    (h : exec i s = .next s') (he : s.irqEnabled = true) (hd : t < s.deadline) (hb : s.deadline ≤ t + 0xFFFF) :
    s'.nextTime = s.nextTime := by
  obtain ⟨-, -, hd', -⟩ := ha.leaves h
  have hcount := advance_running_count he hd (by omega)
  have hkept : s'.deadline = s.deadline := by omega
  exact BitVec.eq_of_toInt_eq hkept

/-- Settles O27: the countdown at the time of the write is the distance to the deadline, and each of the writes arms with
this countdown. -/
theorem writesThatChangeNothingLeaveTheDeadline : Obligations.WritesThatChangeNothingLeaveTheDeadline := by
  intro s s' t v he hd hb
  have hcount : (advance t s).irqCount = BitVec.ofInt 16 (s.nextTime.toInt - t) := by rw [advance_running he hd]; rfl
  have henabled : (advance t s).irqEnabled = true := by rw [advance_running he hd]; exact he
  have hbound (h : s.tLast ≤ t) : s.deadline ≤ t + 0xFFFF := (timerBound_iff.1 hb he).trans (by omega)
  rw [← hcount]
  refine ⟨fun hv h => ?_, fun hv h => ?_, fun hv h => ?_⟩
  · obtain ⟨-, ht, -⟩ := execIrqctl_next.1 h
    exact Arms.nextTime (.inl ⟨rfl, hv, rfl⟩) h he hd (hbound ht)
  · obtain ⟨-, ht, -⟩ := execIrqlo_next.1 h
    exact Arms.nextTime (.inr (.inl ⟨rfl, henabled, by rw [hv, withLow_self]⟩)) h he hd (hbound ht)
  · obtain ⟨-, ht, -⟩ := execIrqhi_next.1 h
    exact Arms.nextTime (.inr (.inr ⟨rfl, henabled, by rw [hv, withHigh_self]⟩)) h he hd (hbound ht)

/-! ### The counter a state stands for (R164) -/

theorem counterAt_stopped {s : State} (x : Int) (h : s.irqEnabled = false) :
    s.counterAt x = { count := s.irqCount, enabled := false, pending := s.irqPending } := by
  rw [State.counterAt, advance_disabled h, h]

theorem counterAt_expired {s : State} {x : Int} (h : s.irqEnabled = true) (hd : s.deadline ≤ x) :
    s.counterAt x = { count := countMax, enabled := false, pending := true } := by
  rw [State.counterAt, advance_expired h hd]
  rfl

theorem counterAt_running {s : State} {x : Int} (h : s.irqEnabled = true) (hd : x < s.deadline) :
    s.counterAt x = { count := BitVec.ofInt 16 (s.deadline - x), enabled := true, pending := s.irqPending } := by
  rw [State.counterAt, advance_running h hd, State.setCount_irqEnabled, h]
  rfl

/-- The counter depends on the flags, the countdown and the deadline alone. -/
theorem counterAt_congr {s s' : State} {x : Int}
    (h : s'.irqEnabled = s.irqEnabled ∧ s'.irqCount = s.irqCount ∧ s'.irqPending = s.irqPending ∧
      s'.nextTime = s.nextTime) : s'.counterAt x = s.counterAt x := by
  obtain ⟨he, hc, hp, hn⟩ := h
  have hdeadline : s'.deadline = s.deadline := congrArg BitVec.toInt hn
  obtain ⟨h, -⟩ | ⟨h, hd, -⟩ | ⟨h, hd, -⟩ := advance_cases x s
  · rw [counterAt_stopped x h, counterAt_stopped x (he.trans h), hc, hp]
  · rw [counterAt_expired h hd, counterAt_expired (he.trans h) (hdeadline.le.trans hd)]
  · rw [counterAt_running h hd, counterAt_running (he.trans h) (hd.trans_eq hdeadline.symm), hdeadline, hp]

/-! ### The passing of time (R164 (a) to (d)) -/

theorem ofInt_sub_one (n : Int) : BitVec.ofInt 16 n - 1 = BitVec.ofInt 16 (n - 1) :=
  (Int.cast_sub (R := BitVec 16) n 1).symm

/-- Cycles that fit the countdown leave it at 0 only when there are none. -/
theorem ofInt_eq_zero_iff {n : Int} (h0 : 0 ≤ n) (h : n ≤ 0xFFFF) : BitVec.ofInt 16 n = 0 ↔ n = 0 := by
  rw [← BitVec.toNat_inj, BitVec.toNat_ofInt, BitVec.ofNat_eq_ofNat, BitVec.toNat_zero]
  omega

/-- One cycle later the state stands for the counter after one tick, when the deadline is at most 0xFFFF cycles away. -/
theorem counterAt_succ {s : State} {x : Int} (hb : s.irqEnabled = true → s.deadline ≤ x + 0xFFFF) :
    s.counterAt (x + 1) = (s.counterAt x).tick := by
  obtain ⟨he, -⟩ | ⟨he, hd, -⟩ | ⟨he, hd, -⟩ := advance_cases x s
  · rw [counterAt_stopped _ he, counterAt_stopped x he]
    rfl
  · rw [counterAt_expired he hd, counterAt_expired he (by omega)]
    rfl
  · have hbound := hb he
    have hcount : BitVec.ofInt 16 (s.deadline - x) - 1 = BitVec.ofInt 16 (s.deadline - (x + 1)) := by
      rw [ofInt_sub_one, Int.sub_sub]
    rw [counterAt_running he hd, Counter.tick, if_pos rfl]
    simp only [hcount, ofInt_eq_zero_iff (n := s.deadline - (x + 1)) (by omega) (by omega)]
    split
    · exact counterAt_expired he (by omega)
    · exact counterAt_running he (by omega)

/-- Settles O29, by induction over the cycles. -/
theorem theLazyTimerCountsLikeACycleByCycleCounter : Obligations.TheLazyTimerCountsLikeACycleByCycleCounter := by
  intro s x hb ht
  refine ⟨fun n => ?_, (advance_irqPending x s).symm⟩
  induction n generalizing x with
  | zero => simp [Counter.ticks]
  | succ n ih =>
    have hbound (he : s.irqEnabled = true) : s.deadline ≤ x + 0xFFFF := (timerBound_iff.1 hb he).trans (by omega)
    calc s.counterAt (x + ↑(n + 1)) = s.counterAt (x + 1 + n) := by congr 1; push_cast; ring
      _ = (s.counterAt (x + 1)).ticks n := ih (x + 1) (by omega)
      _ = (s.counterAt x).ticks (n + 1) := by rw [counterAt_succ hbound]; rfl

/-! ### The operations on the counter (R164) -/

/-- A timer armed at `t` with its countdown, or a stopped one, stands at `t` for its flags and countdown, settled
(R164 (b)). -/
theorem counterAt_eq_settle {s : State} {t : Int} (h : s.irqEnabled = true → s.deadline = t + (s.irqCount.toNat : Int)) :
    s.counterAt t = Counter.settle { count := s.irqCount, enabled := s.irqEnabled, pending := s.irqPending } := by
  obtain ⟨he, -⟩ | ⟨he, hd, -⟩ | ⟨he, hd, -⟩ := advance_cases t s
  · rw [counterAt_stopped t he, he]
    rfl
  · have harmed := h he
    have hzero : s.irqCount = 0 := BitVec.eq_of_toNat_eq (show s.irqCount.toNat = 0 by omega)
    rw [counterAt_expired he hd, he, hzero]
    rfl
  · have harmed := h he
    have hne : s.irqCount ≠ 0#16 := by
      intro hzero
      rw [hzero, BitVec.toNat_zero] at harmed
      omega
    have hleft : s.deadline - t = s.irqCount.toNat := by omega
    rw [counterAt_running he hd, hleft, BitVec.ofInt_natCast, BitVec.ofNat_toNat, BitVec.setWidth_eq]
    simp [Counter.settle, he, hne]

/-- An advance on the way does not change the counter at a later time. -/
theorem counterAt_advance {e x : Int} (h : e ≤ x) (s : State) : (advance e s).counterAt x = s.counterAt x := by
  rw [State.counterAt, advance_advance h]
  rfl

/-- A running deadline moved back by `e`, with the clock, moves the counter back by `e`. -/
theorem counterAt_rebased {a : State} {e : Int} {d : BitVec 32} (h : NewDeadline a (a.deadline - e) d) (x : Int) :
    (a.setNextTime d).counterAt x = a.counterAt (x + e) := by
  cases he : a.irqEnabled with
  | false => rw [counterAt_stopped _ he]; exact counterAt_stopped (s := a.setNextTime d) x he
  | true =>
    have hd : (a.setNextTime d).deadline = a.deadline - e := h.toInt he
    obtain hx | hx := le_or_gt a.deadline (x + e)
    · rw [counterAt_expired he hx, counterAt_expired (s := a.setNextTime d) he (by omega)]
    · rw [counterAt_running he hx, counterAt_running (s := a.setNextTime d) he (by omega), hd, sub_sub, add_comm e]
      rfl

/-- A write or a query that does not concern the timer, APPLY and SAVE leave the counter at every time. -/
theorem exec_keeps_counterAt {i : Instr} {t : Int} {v : Byte} {s s' : State}
    (hi : i ∈ [Instr.sel t v, .chr0 t v, .chr1 t v, .chr2 t v, .chr3 t v, .chr4 t v, .chr5 t v, .chr6 t v, .chr7 t v,
      .wram t v, .prg0 t v, .prg1 t v, .prg2 t v, .mir t v, .snd t v, .out t v, .nextirq t, .apply, .save])
    (h : exec i s = .next s') (x : Int) : s'.counterAt x = s.counterAt x := by
  cases exec_effect h with
  | store _ _ _ hs => exact counterAt_congr ⟨hs.irqEnabled, hs.irqCount, hs.irqPending, hs.nextTime⟩
  | apply => rw [applyMapping_eq]; exact counterAt_congr ⟨rfl, rfl, rfl, rfl⟩
  | nextirq | save => exact counterAt_congr ⟨rfl, rfl, rfl, rfl⟩
  | enable | disable | run | endframe | reset | load => simp at hi
  | count _ _ _ _ hcount => obtain ⟨rfl, -⟩ | ⟨rfl, -⟩ := hcount <;> simp at hi

/-- IRQCTL acts on the counter at its time (R153). -/
theorem irqctl_counterAt {s s' : State} {t : Int} {v : Byte} (h : exec (.irqctl t v) s = .next s') :
    s'.counterAt t = (s.counterAt t).ctl v := by
  cases hv : irqBit v with
  | true =>
    obtain ⟨d, hd, rfl⟩ := irqctl_enable_leaves hv h
    rw [Counter.ctl, if_pos hv]
    exact counterAt_eq_settle fun _ => hd
  | false =>
    rw [irqctl_disable_leaves hv h, counterAt_stopped t rfl, Counter.ctl, if_neg (Bool.eq_false_iff.1 hv)]
    rfl

/-- What LOAD of an accepted block leaves of the timer (R185). -/
theorem execLoad_leaves {b : List Byte} {s s' : State} (h : exec (.load b) s = .next s') :
    s'.irqEnabled = (byteAt b 13)[0] ∧ s'.irqCount = getLe16 b 15 ∧ s'.deadline = (getLe32 b 17).toInt ∧
      s'.irqPending = s.irqPending := by
  obtain ⟨-, -, rfl⟩ := execLoad_next.1 h
  exact ⟨rfl, rfl, rfl, rfl⟩

/-- Settles O30: the lemmas above say what each operation leaves, and the counter is read from it. -/
theorem operationsActOnTheCycleByCycleCounter : Obligations.OperationsActOnTheCycleByCycleCounter := by
  intro s s' t
  refine ⟨fun v h => irqctl_counterAt h, fun v h => ?_, fun v h => ?_, fun h x hx => ?_, fun h x hx => ?_,
    fun v i hi h x => exec_keeps_counterAt hi h x, fun h x => ?_, fun b h => ⟨fun hflag x => ?_, fun hflag x => ?_⟩⟩
  · obtain ⟨d, hd, rfl⟩ := irqlo_leaves h
    exact counterAt_eq_settle hd.toInt
  · obtain ⟨d, hd, rfl⟩ := irqhi_leaves h
    exact counterAt_eq_settle hd.toInt
  · obtain ⟨-, -, rfl⟩ := execRun_next.1 h
    exact (counterAt_advance hx (s.at t)).trans (counterAt_congr ⟨rfl, rfl, rfl, rfl⟩)
  · obtain ⟨-, -, h⟩ := execEndframe_next.1 h
    obtain ⟨d, hd, rfl⟩ := rebase_leaves h
    rw [counterAt_rebased hd]
    calc ((advance t (s.at t)).setTLast 0).counterAt (x + t)
      _ = (advance t (s.at t)).counterAt (x + t) := counterAt_congr ⟨rfl, rfl, rfl, rfl⟩
      _ = (s.at t).counterAt (x + t) := counterAt_advance (by omega) _
      _ = s.counterAt (x + t) := counterAt_congr ⟨rfl, rfl, rfl, rfl⟩
  · rw [execReset_next.1 h, applyMapping_eq]
    exact counterAt_stopped x rfl
  · obtain ⟨he, hc, -, hp⟩ := execLoad_leaves h
    rw [counterAt_stopped x (by rw [he, hflag]; rfl), hc, hp]
  · obtain ⟨he, -, hd, hp⟩ := execLoad_leaves h
    have henabled : s'.irqEnabled = true := by rw [he, hflag]; rfl
    rw [← hd, ← hp]
    exact ⟨counterAt_expired henabled, counterAt_running henabled⟩

end Sys2Proof.Machine
end

section
/-! PROOFS. The host operations on the whole register file (43_host_operations.md): the calls of APPLY and what they do to
a current bus, the block of SAVE and the blocks LOAD accepts, and the round trip through a fresh chip. LOAD undoes
SAVE (`loadBlock_block`) and SAVE undoes LOAD (`block_loadBlock`); a current bus holds one call per register, so two
current buses of the same registers agree. -/

namespace Sys2Proof.Machine

/-! ### APPLY (R180, R182) -/

/-- Settles O42, from the thirteen calls of `applyMapping`. -/
theorem applyMakesThirteenCallsInOrder : Obligations.ApplyMakesThirteenCallsInOrder := by
  intro s hreset
  rw [execApply_next, applyMapping_eq, map_regCall_mappingOrder]
  exact ⟨hreset, rfl⟩

/-- Calls that each change nothing change nothing together. -/
theorem BusView.run_eq_self {v : BusView} {l : List Call} (h : ∀ c ∈ l, v.apply c = v) : v.run l = v := by
  induction l with
  | nil => rfl
  | cons c l ih =>
    obtain ⟨hc, hl⟩ := List.forall_mem_cons.1 h
    exact (congrArg (BusView.run · l) hc).trans (ih hl)

/-- On a current bus the call of every register finds its entry as it says (R182). -/
theorem bus_applyMapping_of_busCurrent {s : State} (hcur : s.busCurrent = true) : (applyMapping s).bus = s.bus := by
  rw [bus_applyMapping]
  refine BusView.run_eq_self fun c hc => ?_
  obtain ⟨r, -, rfl⟩ := List.mem_map.1 hc
  exact (BusView.apply_eq_self_iff s.bus_wf _).2 ((busCurrent_iff s).1 hcur r)

/-- Settles O44: clearing the answer keeps the bus, and `applyMapping` leaves a current one. -/
theorem applyLeavesACurrentBusUnchanged : Obligations.ApplyLeavesACurrentBusUnchanged :=
  fun s hreset hcur =>
    ⟨_, execApply_next.2 ⟨hreset, rfl⟩, bus_applyMapping_of_busCurrent (s := s.setAnswer .nothing) hcur⟩

/-! ### The persisted block (R183) -/

theorem toList_eq_ofFn {α : Type} {n : Nat} (v : Vector α n) : v.toList = List.ofFn fun i : Fin n => v[i] :=
  List.ext_getElem (by simp) fun _ _ _ => by simp

theorem toList_vector3 {α : Type} (v : Vector α 3) : v.toList = [v[0], v[1], v[2]] := toList_eq_ofFn v

theorem toList_vector8 {α : Type} (v : Vector α 8) :
    v.toList = [v[0], v[1], v[2], v[3], v[4], v[5], v[6], v[7]] := toList_eq_ofFn v

/-- The 21 bytes of the block, one by one. -/
theorem block_eq (s : State) : s.block =
    [s.mirroring.setWidth 8, s.prgBanks[0], s.prgBanks[1], s.prgBanks[2],
     s.chrBanks[0], s.chrBanks[1], s.chrBanks[2], s.chrBanks[3],
     s.chrBanks[4], s.chrBanks[5], s.chrBanks[6], s.chrBanks[7],
     s.command.setWidth 8, flagByte s.irqEnabled, s.wramControl,
     s.irqCount.extractLsb' 0 8, s.irqCount.extractLsb' 8 8,
     s.nextTime.extractLsb' 0 8, s.nextTime.extractLsb' 8 8, s.nextTime.extractLsb' 16 8,
     s.nextTime.extractLsb' 24 8] := by
  rw [State.block, toList_vector3, toList_vector8]
  rfl

/-- Settles O45, from the bytes of the block. -/
theorem saveReturnsTheBlockOfTheRegisters : Obligations.SaveReturnsTheBlockOfTheRegisters := by
  intro s hreset
  rw [execSave_next, block_eq]
  exact ⟨hreset, rfl⟩

/-! ### The check of LOAD (R185) -/

theorem blockOk_iff {b : List Byte} :
    blockOk b = true ↔
      b.length = 21 ∧ (byteAt b 0).toNat ≤ 3 ∧ (byteAt b 12).toNat ≤ 15 ∧ (byteAt b 13).toNat ≤ 1 := by
  simp [blockOk, stateBytes, and_assoc]

/-- After a reset LOAD refuses every block that does not pass its check. -/
theorem execLoad_refused {b : List Byte} {s : State} (h : s.resetDone = true) (hb : ¬ blockOk b = true) :
    exec (.load b) s = .refused .malformedBlock := by
  rw [exec, execLoad, afterReset_accepts h, if_neg hb]

/-- Settles O46: the bounds are the check of LOAD, and the stores of an accepted block are read byte by byte. -/
theorem loadInstallsTheBlockOrRefusesIt : Obligations.LoadInstallsTheBlockOrRefusesIt := by
  refine fun s hreset => ⟨?_, fun b hbad => execLoad_refused hreset fun hb => ?_⟩
  · intro b₀ b₁ b₂ b₃ b₄ b₅ b₆ b₇ b₈ b₉ b₁₀ b₁₁ b₁₂ b₁₃ b₁₄ b₁₅ b₁₆ b₁₇ b₁₈ b₁₉ b₂₀ hmode hlatch hflag
    exact execLoad_next.2 ⟨hreset, blockOk_iff.2 ⟨rfl, hmode, hlatch, hflag⟩, rfl⟩
  · obtain ⟨hlength, hmode, hlatch, hflag⟩ := blockOk_iff.1 hb
    omega

/-! ### SAVE and LOAD undo each other -/

/-- Narrowing a byte to a field that its value fits, and widening it again. -/
theorem setWidth_extractLsb'_of_lt {n : Nat} {v : Byte} (h : v.toNat < 2 ^ n) :
    (v.extractLsb' 0 n).setWidth 8 = v := by
  apply BitVec.eq_of_toNat_eq
  rw [BitVec.toNat_setWidth, BitVec.extractLsb'_toNat, Nat.shiftRight_zero, Nat.mod_eq_of_lt h, Nat.mod_eq_of_lt v.isLt]

/-- A byte sequence is the bytes at its offsets. -/
theorem map_byteAt_range (b : List Byte) : (List.range b.length).map (byteAt b) = b :=
  List.ext_getElem (by simp) fun i _ hi => by simp [byteAt, hi]

/-- What SAVE produces passes the check of LOAD. -/
theorem blockOk_block (s : State) : blockOk s.block = true := by
  have hmode : (s.mirroring.setWidth 8).toNat ≤ 3 := by rw [BitVec.toNat_setWidth]; omega
  have hlatch : (s.command.setWidth 8).toNat ≤ 15 := by rw [BitVec.toNat_setWidth]; omega
  have hflag : (flagByte s.irqEnabled).toNat ≤ 1 := by cases s.irqEnabled <;> decide
  rw [blockOk_iff, block_eq]
  exact ⟨rfl, hmode, hlatch, hflag⟩

/-- SAVE after LOAD of an accepted block gives the block back. -/
theorem block_loadBlock {b : List Byte} (hb : blockOk b = true) (s : State) : (s.loadBlock b).block = b := by
  obtain ⟨hlength, hmode, hlatch, -⟩ := blockOk_iff.1 hb
  obtain ⟨hcount₀, hcount₁⟩ := bytes_join16 (byteAt b 16) (byteAt b 15)
  obtain ⟨htime₀, htime₁, htime₂, htime₃⟩ := bytes_join32 (byteAt b 20) (byteAt b 19) (byteAt b 18) (byteAt b 17)
  rw [block_eq]
  simp only [State.loadBlock_mirroring, State.loadBlock_command, State.loadBlock_irqEnabled, State.loadBlock_irqCount,
    State.loadBlock_nextTime, getLe16, getLe32, hcount₀, hcount₁, htime₀, htime₁, htime₂, htime₃,
    setWidth_extractLsb'_of_lt (n := 2) (Nat.lt_succ_of_le hmode),
    setWidth_extractLsb'_of_lt (n := 4) (Nat.lt_succ_of_le hlatch), ← flagByte_of_blockOk hb]
  refine Eq.trans ?_ (map_byteAt_range b)
  rw [hlength]
  rfl

/-- Settles O47: an accepted block is the block of the state that LOAD makes of it. -/
theorem loadAcceptsExactlyTheBlocksSaveProduces : Obligations.LoadAcceptsExactlyTheBlocksSaveProduces :=
  fun _ => ⟨fun hb => ⟨_, block_loadBlock hb State.reset⟩, fun ⟨s, hs⟩ => hs ▸ blockOk_block s⟩

/-- LOAD of the block of `s` installs the registers of `s`, with the deadline, and keeps the rest. -/
theorem loadBlock_block (s f : State) :
    f.loadBlock s.block = { s with
      irqPending := f.irqPending, tLast := f.tLast, resetDone := f.resetDone, trace := f.trace, answer := f.answer
      inbox := f.inbox, cfg := f.cfg } := by
  have hprg : #v[s.prgBanks[0], s.prgBanks[1], s.prgBanks[2]] = s.prgBanks :=
    Vector.toList_inj.1 (toList_vector3 s.prgBanks).symm
  have hchr : #v[s.chrBanks[0], s.chrBanks[1], s.chrBanks[2], s.chrBanks[3], s.chrBanks[4], s.chrBanks[5],
      s.chrBanks[6], s.chrBanks[7]] = s.chrBanks :=
    Vector.toList_inj.1 (toList_vector8 s.chrBanks).symm
  have hflag : (flagByte s.irqEnabled)[0] = s.irqEnabled := by cases s.irqEnabled <;> rfl
  have hmode : (s.mirroring.setWidth 8).extractLsb' 0 2 = s.mirroring := by
    rw [BitVec.extractLsb'_setWidth_of_le (by decide), BitVec.extractLsb'_eq_self]
  have hlatch : (s.command.setWidth 8).extractLsb' 0 4 = s.command := by
    rw [BitVec.extractLsb'_setWidth_of_le (by decide), BitVec.extractLsb'_eq_self]
  have hcount : getLe16 s.block 15 = s.irqCount := by rw [block_eq]; exact join_bytes16 _
  have htime : getLe32 s.block 17 = s.nextTime := by rw [block_eq]; exact join_bytes32 _
  rw [State.loadBlock, hcount, htime, block_eq]
  simp only [byteAt, List.getD_cons_zero, List.getD_cons_succ, hprg, hchr, hflag, hmode, hlatch]

/-! ### The round trip through a fresh chip (R186) -/

/-- The state of `s` on the chip `f` after RESET, LOAD of the block of `s`, and APPLY: the registers of `s` with
nothing pending, and the calls of the pin, of the reset registers and of the registers of `s`. -/
def State.reproducedOn (s f : State) : State :=
  { s with
    irqPending := false, tLast := 0, resetDone := true, answer := .nothing, inbox := f.inbox
    trace := [pinCall s.cfg] ++ mappingOrder.map f.resetRegisters.regCall ++ mappingOrder.map s.regCall }

/-- RESET, LOAD of the block of `s`, and APPLY complete on a chip with no calls yet, and reproduce `s` on it. -/
theorem exec_reproducedOn {s f : State} (hcfg : f.cfg = s.cfg) (htrace : f.trace = []) :
    ∃ f₁ f₂, exec .reset f = .next f₁ ∧ exec (.load s.block) f₁ = .next f₂ ∧
      exec .apply f₂ = .next (s.reproducedOn f) := by
  refine ⟨_, _, execReset_next.2 rfl, execLoad_next.2 ⟨?_, blockOk_block s, rfl⟩, execApply_next.2 ⟨?_, ?_⟩⟩
  · simp [applyMapping_eq]
  · simp [applyMapping_eq]
  · rw [loadBlock_block, applyMapping_eq, applyMapping_eq]
    simp only [State.reproducedOn, State.setAnswer, State.pinTop_trace, State.pinTop_cfg, State.resetRegisters_trace,
      State.resetRegisters_cfg, htrace, hcfg]
    rfl

/-- The registers of `s` are applied last, so the bus is current. -/
theorem busCurrent_reproducedOn {s : State} (hc : s.cfg.wf = true) (f : State) :
    (s.reproducedOn f).busCurrent = true := by
  rw [busCurrent_iff]
  intro c
  rw [State.bus, State.reproducedOn, BusView.run_append]
  exact holds_run_regs hc _ _ c (.inl (mem_mappingOrder c))

/-- No register names the topmost window, so it stays pinned. -/
theorem holds_pinCall_reproducedOn {s f : State} (hc : s.cfg.wf = true) (hcfg : f.cfg = s.cfg) :
    (s.reproducedOn f).bus.holds (pinCall s.cfg) := by
  rw [State.bus, State.reproducedOn, BusView.run_append, BusView.run_append]
  refine BusView.holds_run_of_ne (fun d hd => ?_)
    (BusView.holds_run_of_ne (fun d hd => ?_) (BusView.holds_apply BusView.fresh (pinCall s.cfg)))
  · obtain ⟨r, -, rfl⟩ := List.mem_map.1 hd
    exact (entry_ne_top hc r).symm
  · obtain ⟨r, -, rfl⟩ := List.mem_map.1 hd
    rw [← hcfg] at hc ⊢
    exact (entry_ne_top (s := f.resetRegisters) hc r).symm

/-- A current bus holds the arrangement of the stored mode (R141). -/
theorem mirror_of_busCurrent {s : State} (hcur : s.busCurrent = true) : s.bus.mirror = some s.arrangement :=
  (holds_mirrorCall_iff _ s).1 ((busCurrent_iff s).1 hcur 12)

/-- A current bus holds the RAM enable of the command-0x8 register, in RAM mode (R120). -/
theorem extraRam_of_busCurrent {s : State} (hcur : s.busCurrent = true) (hram : s.wramControl[6] = true) :
    s.bus.extraRam = some s.wramControl[7] := by
  have h := (busCurrent_iff s).1 hcur 8
  rwa [regCall_wram, wramCall_ram _ hram] at h

/-- Calls that do not name a program window leave it as it was. -/
theorem get_prgWin_run_of_ne {a : Nat} {v : BusView} {l : List Call} (h : ∀ d ∈ l, d.entry ≠ .prg a) :
    BankMap.get a (v.run l).prgWin = BankMap.get a v.prgWin := by
  induction l generalizing v with
  | nil => rfl
  | cons d l ih =>
    obtain ⟨hd, hl⟩ := List.forall_mem_cons.1 h
    refine (ih hl).trans ?_
    cases d with
    | setProgramBank b _ _ => exact BankMap.get_set_of_ne _ _ fun hab => hd (by rw [hab]; rfl)
    | _ => rfl

/-- Register 0x8 alone may name the RAM enable or the command-0x8 window, so what its call does not name of these no
register names. -/
theorem entry_ne_of_owner_wram {s : State} (hc : s.cfg.wf = true) {e : Entry} (he : e.owner s.cfg = 8)
    (hwram : (s.regCall 8).entry ≠ e) (c : Fin 13) : (s.regCall c).entry ≠ e := by
  by_cases hc8 : c = 8
  · rw [hc8]; exact hwram
  · intro heq
    have howner := owner_regCall hc c
    rw [heq, he] at howner
    split at howner
    · contradiction
    · exact hc8 (Fin.ext howner.symm)

theorem owner_wramBase (c : Config) : (Entry.prg c.wramBase).owner c = 8 := if_pos rfl

theorem pinCall_entry_ne_wramBase {c : Config} (hc : c.wf = true) : (pinCall c).entry ≠ .prg c.wramBase := by
  intro h
  have htop : c.prgBase + 0x6000 = c.wramBase := Entry.prg.inj h
  rw [Config.wf_iff] at hc
  omega

/-- In RAM mode no register names the command-0x8 window (R121). -/
theorem entry_ne_wramBase {s : State} (hc : s.cfg.wf = true) (hram : s.wramControl[6] = true) (c : Fin 13) :
    (s.regCall c).entry ≠ .prg s.cfg.wramBase :=
  entry_ne_of_owner_wram hc (owner_wramBase _) (by rw [regCall_wram, wramCall_ram _ hram]; nofun) c

/-- In bank mode no register names the RAM enable (R121). -/
theorem entry_ne_ram {s : State} (hc : s.cfg.wf = true) (hbank : s.wramControl[6] = false) (c : Fin 13) :
    (s.regCall c).entry ≠ .ram :=
  entry_ne_of_owner_wram hc rfl (by rw [regCall_wram, wramCall_bank _ hbank]; nofun) c

/-- In RAM mode no call names the command-0x8 window: reset leaves RAM mode too. -/
theorem get_wramBase_reproducedOn {s f : State} (hc : s.cfg.wf = true) (hcfg : f.cfg = s.cfg)
    (hram : s.wramControl[6] = true) : BankMap.get s.cfg.wramBase (s.reproducedOn f).bus.prgWin = none := by
  refine get_prgWin_run_of_ne (v := BusView.fresh) fun d hd => ?_
  simp only [State.reproducedOn, List.mem_append, List.mem_singleton, List.mem_map] at hd
  obtain (rfl | ⟨r, -, rfl⟩) | ⟨r, -, rfl⟩ := hd
  · exact pinCall_entry_ne_wramBase hc
  · rw [← hcfg] at hc ⊢
    exact entry_ne_wramBase (s := f.resetRegisters) hc (show wramReset[6] = true by decide) r
  · exact entry_ne_wramBase hc hram r

/-- In bank mode the RAM enable is still that of reset. -/
theorem extraRam_reproducedOn {s f : State} (hc : s.cfg.wf = true) (hcfg : f.cfg = s.cfg)
    (hbank : s.wramControl[6] = false) : (s.reproducedOn f).bus.extraRam = some true := by
  have hreset : f.resetRegisters.regCall 8 = .enableExtraRam true := by
    rw [regCall_wram, State.resetRegisters_wramControl, wramCall_wramReset]
  have hheld : (s.reproducedOn f).bus.holds (f.resetRegisters.regCall 8) := by
    rw [State.bus, State.reproducedOn, BusView.run_append, BusView.run_append]
    refine BusView.holds_run_of_ne (fun d hd => ?_) (holds_run_regs (hcfg ▸ hc) _ _ 8 (.inl (mem_mappingOrder 8)))
    obtain ⟨r, -, rfl⟩ := List.mem_map.1 hd
    rw [hreset]
    exact (entry_ne_ram hc hbank r).symm
  rwa [hreset] at hheld

/-- A current bus with the topmost window pinned is reproduced in the four program windows. -/
theorem get_prgWindow_reproducedOn {s f : State} (hinv : s.inv = true) (hcur : s.busCurrent = true)
    (hcfg : f.cfg = s.cfg) (k : Fin 4) :
    BankMap.get (prgWindow s.cfg k.val) (s.reproducedOn f).bus.prgWin =
      BankMap.get (prgWindow s.cfg k.val) s.bus.prgWin := by
  obtain ⟨hc, -, -, -, hpinned⟩ := inv_iff.1 hinv
  refine Fin.lastCases ?_ (fun k => ?_) k
  · exact (holds_pinCall_reproducedOn hc hcfg).trans hpinned.symm
  · exact (get_prgWindow (busCurrent_reproducedOn hc f) k).trans (get_prgWindow hcur k).symm

/-- Settles O48: the last state is `s` reproduced on `f`, and its bus and that of `s` hold the calls of the same
registers. -/
theorem saveThenLoadOnAFreshInstanceReproducesTheChip : Obligations.SaveThenLoadOnAFreshInstanceReproducesTheChip := by
  intro s f hinv hcur hcfg htrace
  obtain ⟨hc, hreset, -, -, -⟩ := inv_iff.1 hinv
  obtain ⟨f₁, f₂, hf₁, hf₂, hf₃⟩ := exec_reproducedOn hcfg htrace
  have hcur' : (s.reproducedOn f).busCurrent = true := busCurrent_reproducedOn hc f
  refine ⟨_, s.block, f₁, f₂, s.reproducedOn f, execSave_next.2 ⟨hreset, rfl⟩, rfl, hf₁, hf₂, hf₃, rfl, rfl, rfl, rfl,
    rfl, rfl, rfl, rfl, rfl, get_prgWindow_reproducedOn hinv hcur hcfg, fun i => ?_, ?_, fun hram => ⟨?_, ?_⟩,
    fun hbank => ⟨?_, extraRam_reproducedOn hc hcfg hbank⟩⟩
  · exact (get_chrWindow hcur' i).trans (get_chrWindow hcur i).symm
  · exact (mirror_of_busCurrent hcur').trans (mirror_of_busCurrent hcur).symm
  · exact (extraRam_of_busCurrent hcur' hram).trans (extraRam_of_busCurrent hcur hram).symm
  · exact get_wramBase_reproducedOn hc hcfg hram
  · have hmode : ¬ ramSelect s.wramControl := Bool.eq_false_iff.1 hbank
    exact (get_wramBase hcur' hmode).trans (get_wramBase hcur hmode).symm

end Sys2Proof.Machine
end

section
/-! PROOFS. Hazards of the timer (70_reset_and_hazards.md): the safe sequence of R241. A pseudo-operation `SET` is two
steps, the latch and then the data write it routes (`run_pseudoSet`); once IRQOFF has stopped the timer, nothing that the
sequence does depends on what the timer held before. -/

namespace Sys2Proof.Machine

/-! ### The steps of a `SET` (R93) -/

/-- A run continues from what its first step answers. -/
theorem run_succ_of_step {M : Host.Core} {s s' : M.State} (h : M.step s = .next s') (k : Nat) :
    M.run (k + 1) s = M.run k s' := by
  rw [Host.Core.run, h]

/-- A waiting write to the first address of a region is routed by the region and the present latch (R92). -/
theorem step_write_regionFirst {s : State} {r : Region} {t : Int} {v : Byte} {rest : List Request}
    (hc : s.cfg.wf = true) (hin : s.inbox = .write t (regionFirst s.cfg r) v :: rest) :
    step s = exec (decodeWrite r s.command t v) { s with inbox := rest } :=
  stepRunsTheDecodedInstruction.1 s _ rest _ hin
    (decode_write_of_region (region_regionFirst hc r) s.command t v)

/-- The byte that `SET` writes to the select range loads the latch it names (R92, R110). -/
theorem selLatch_setWidth (l : Latch) : selLatch (l.setWidth 8) = l := by
  revert l
  decide

/-- The first write of a `SET` loads the latch it names (R93, R110). -/
theorem step_lineSel {s : State} {t : Int} {l : Latch} {rest : List Request} (hc : s.cfg.wf = true)
    (haccepts : s.accepts t) (hin : s.inbox = lineSel s.cfg t (l.setWidth 8) :: rest) :
    step s = .next { s.at t with command := l, inbox := rest } := by
  obtain ⟨hreset, ht⟩ := haccepts
  refine (step_write_regionFirst hc hin).trans (execSel_next.2 ⟨hreset, ht, ?_⟩)
  rw [selLatch_setWidth]
  rfl

/-- The second write of a `SET` runs the operation of the latch just loaded (R83, R93). -/
theorem step_lineData {s : State} {t : Int} {l : Latch} {v : Byte} {rest : List Request} (hc : s.cfg.wf = true) :
    step { s.at t with command := l, inbox := lineData s.cfg t v :: rest } =
      exec (decodeData l t v) { s.at t with command := l, inbox := rest } :=
  step_write_regionFirst (s := { s.at t with command := l, inbox := lineData s.cfg t v :: rest }) (r := .data) hc rfl

/-- `SET` runs as two steps: the latch is loaded, and the data write it routes answers from there (R93). -/
theorem run_pseudoSet {s s' : State} {t : Int} {l : Latch} {v : Byte} {rest : List Request} (k : Nat)
    (hc : s.cfg.wf = true) (haccepts : s.accepts t) (hin : s.inbox = pseudoSet s.cfg t l v ++ rest)
    (hexec : exec (decodeData l t v) { s.at t with command := l, inbox := rest } = .next s') :
    Sys2Proof.core.run (k + 2) s = Sys2Proof.core.run k s' := by
  have hsel : Sys2Proof.core.step s = .next { s.at t with command := l, inbox := lineData s.cfg t v :: rest } :=
    step_lineSel hc haccepts hin
  have hdata : Sys2Proof.core.step { s.at t with command := l, inbox := lineData s.cfg t v :: rest } = .next s' :=
    (step_lineData hc).trans hexec
  exact (run_succ_of_step hsel (k + 1)).trans (run_succ_of_step hdata k)

/-! ### The safe sequence (R241) -/

/-- `s` after a write at `t`, with the timer stopped and acknowledged, the latch `l`, the countdown `c` and `rest` still
waiting. -/
def State.stopped (s : State) (t : Int) (l : Latch) (c : BitVec 16) (rest : List Request) : State :=
  { s with
    command := l, irqEnabled := false, irqPending := false, irqCount := c, tLast := t, answer := .nothing
    inbox := rest }

theorem State.stopped_accepts {s : State} (hreset : s.resetDone = true) (t : Int) (l : Latch) (c : BitVec 16)
    (rest : List Request) : (s.stopped t l c rest).accepts t := ⟨hreset, le_rfl⟩

/-- IRQCTL with bit 0 clear keeps of the advance to its time the countdown alone (R153, R156). -/
theorem execIrqctl_disable {s : State} {t : Int} {v : Byte} (haccepts : s.accepts t) (hv : irqBit v = false) :
    exec (.irqctl t v) s = .next { s.at t with
      irqEnabled := false, irqPending := false, irqCount := (advance t s).irqCount } := by
  refine execIrqctl_next.2 ⟨haccepts.1, haccepts.2, .inr ⟨hv, ?_⟩⟩
  rw [advance_at, advance_eq]
  rfl

/-- IRQOFF stops the timer from every state, with some countdown. -/
theorem run_pseudoIrqOff {s : State} {t : Int} {rest : List Request} (k : Nat) (hc : s.cfg.wf = true)
    (haccepts : s.accepts t) (hin : s.inbox = pseudoIrqOff s.cfg t ++ rest) :
    ∃ c, Sys2Proof.core.run (k + 2) s = Sys2Proof.core.run k (s.stopped t 0xD c rest) :=
  ⟨_, run_pseudoSet k hc haccepts hin (execIrqctl_disable ⟨haccepts.1, le_rfl⟩ rfl)⟩

/-- The two countdown writes with the bytes of `n` leave `n`, whatever the countdown was (R154, R155). -/
theorem withHigh_withLow (c n : BitVec 16) : withHigh (withLow c (n.extractLsb' 0 8)) (n.extractLsb' 8 8) = n := by
  rw [withHigh, withLow, (bytes_join16 _ _).1]
  exact join_bytes16 n

section
variable {s : State} {t : Int} (k : Nat) (hc : s.cfg.wf = true) (hreset : s.resetDone = true)
include hc hreset

/-- The low-byte write of SETCOUNT on a stopped timer arms nothing (R154). -/
theorem run_setLow_stopped (l : Latch) (c : BitVec 16) (v : Byte) (rest : List Request) :
    Sys2Proof.core.run (k + 2) (s.stopped t l c (pseudoSet s.cfg t 0xE v ++ rest)) =
      Sys2Proof.core.run k (s.stopped t 0xE (withLow c v) rest) :=
  have hexec : exec (.irqlo t v) (s.stopped t 0xE c rest) = .next (s.stopped t 0xE (withLow c v) rest) :=
    (execIrqlo_accepts (State.stopped_accepts hreset t _ _ _) v).trans (rearmIfEnabled_disabled rfl)
  run_pseudoSet k hc (State.stopped_accepts hreset t _ _ _) rfl hexec

/-- The high-byte write of SETCOUNT on a stopped timer arms nothing (R155). -/
theorem run_setHigh_stopped (l : Latch) (c : BitVec 16) (v : Byte) (rest : List Request) :
    Sys2Proof.core.run (k + 2) (s.stopped t l c (pseudoSet s.cfg t 0xF v ++ rest)) =
      Sys2Proof.core.run k (s.stopped t 0xF (withHigh c v) rest) :=
  have hexec : exec (.irqhi t v) (s.stopped t 0xF c rest) = .next (s.stopped t 0xF (withHigh c v) rest) :=
    (execIrqhi_accepts (State.stopped_accepts hreset t _ _ _) v).trans (rearmIfEnabled_disabled rfl)
  run_pseudoSet k hc (State.stopped_accepts hreset t _ _ _) rfl hexec

/-- SETCOUNT on a stopped timer installs its countdown and arms nothing. -/
theorem run_pseudoSetCount_stopped (l : Latch) (c n : BitVec 16) (rest : List Request) :
    Sys2Proof.core.run (k + 4) (s.stopped t l c (pseudoSetCount s.cfg t n ++ rest)) =
      Sys2Proof.core.run k (s.stopped t 0xF n rest) := by
  rw [pseudoSetCount, List.append_assoc, run_setLow_stopped (k + 2) hc hreset, run_setHigh_stopped k hc hreset,
    withHigh_withLow]

/-- IRQON on a stopped timer arms it with its countdown (R152, R153). -/
theorem run_pseudoIrqOn_stopped (hclock : clockFits t) (l : Latch) (n : BitVec 16) (rest : List Request) :
    Sys2Proof.core.run (k + 2) (s.stopped t l n (pseudoIrqOn s.cfg t ++ rest)) =
      Sys2Proof.core.run k { s.stopped t 0xD n rest with
        irqEnabled := true, nextTime := BitVec.ofInt 32 (t + n.toNat) } := by
  have hfits : fitsDeadline (t + (n.toNat : Int)) = true := by
    have := n.isLt
    exact fitsDeadline_iff.2 (by omega)
  have hexec : exec (.irqctl t 1) (s.stopped t 0xD n rest) = .next { s.stopped t 0xD n rest with
      irqEnabled := true, nextTime := BitVec.ofInt 32 (t + n.toNat) } :=
    execIrqctl_next.2 ⟨hreset, le_rfl, .inl ⟨rfl, arm_next.2 ⟨hfits, rfl⟩⟩⟩
  exact run_pseudoSet k hc (State.stopped_accepts hreset t _ _ _) rfl hexec

end

/-- Settles O54: IRQOFF stops the timer, SETCOUNT replaces whatever countdown it stopped with, and IRQON arms that. -/
theorem theSafeSequenceArmsExactlyTheCount : Obligations.TheSafeSequenceArmsExactlyTheCount := by
  intro s t n hc haccepts hclock hin
  have hin' : s.inbox = pseudoIrqOff s.cfg t ++ (pseudoSetCount s.cfg t n ++ (pseudoIrqOn s.cfg t ++ [])) := by
    rw [hin, List.append_nil, List.append_assoc]
  obtain ⟨c, hoff⟩ := run_pseudoIrqOff 6 hc haccepts hin'
  rw [hoff, run_pseudoSetCount_stopped 2 hc haccepts.1]
  exact run_pseudoIrqOn_stopped 0 hc haccepts.1 hclock 0xF n []

end Sys2Proof.Machine
end
